-- ==== Sys2Proof/Word.lean ====
section
/-! DEFINITION. The word and byte types of the descriptor ring engine and their plainest arithmetic
(spec/00_scope.md R10: bit 0 is the least significant bit, address arithmetic is modulo 2^32). -/

namespace Sys2Proof

/-- A 32-bit word: a register, a descriptor word, or a CPU or DMA byte address (R8: WORD_W = ADDR_W = 32). -/
abbrev Word := BitVec 32

/-- One byte of memory or of a frame. -/
abbrev Byte := BitVec 8

/-- `BIT(n) = 1 << n` within 32 bits (R10). -/
abbrev bit (n : Nat) : Word := 1#32 <<< n

end Sys2Proof
end

