-- ==== Sys2Proof/Syntax.lean ====
section
/-! DEFINITION. The commands of the block: one constructor per row of spec/opcode_table.json (30_encoding.md R122).
32-bit operands travel in ARG0 and ARG1 and are no part of a command word (R120). -/

namespace Sys2Proof

/-- The ring a RING_* command selects: SUB = 0 is tx, SUB = 1 is rx (R120, R140). -/
inductive Ring where
  | tx | rx
  deriving DecidableEq, Repr, Inhabited

/-- The thirteen commands. `index` is the command's IMM, an unsigned slot index (R120). -/
inductive Instr where
  | ringInit (r : Ring)
  | ringAdvance (r : Ring) (index : Nat)
  | ringSlot (r : Ring) (index : Nat)
  | ringMarkEnd (r : Ring) (index : Nat)
  | syncFlush
  | syncInvalidate
  | txSubmit
  | rxPoll
  | rxRelease
  | linkAdjust
  | devStart
  | devStop
  | devSetMac
  deriving DecidableEq, Repr, Inhabited

end Sys2Proof
end

