-- ==== Sys2Proof/WellFormed.lean ====
section
/-! DEFINITION. Which commands can be written as a command word: an IMM is an unsigned 16-bit index (R120). -/

namespace Sys2Proof

/-- IMM has 16 bits (R120); every other operand of a command is well formed by its type. -/
def Instr.wellFormed : Instr → Bool
  | .ringInit _ => true
  | .ringAdvance _ index => decide (index < 65536)
  | .ringSlot _ index => decide (index < 65536)
  | .ringMarkEnd _ index => decide (index < 65536)
  | .syncFlush => true
  | .syncInvalidate => true
  | .txSubmit => true
  | .rxPoll => true
  | .rxRelease => true
  | .linkAdjust => true
  | .devStart => true
  | .devStop => true
  | .devSetMac => true

end Sys2Proof
end

