-- ==== Sys2Proof/Decode.lean ====
section
/-! DEFINITION. The command word (30_encoding.md R120 to R126): a decoder that is total on 32-bit words and rejects
by name, the encoder, the opcode table as mask and pattern rows, and the host's entry `decodeTableWord`. -/

namespace Sys2Proof

/-- Why a command word is ILLEGAL (R125, R292). -/
inductive DecodeError where
  /-- OP is not in R122's table -/
  | unassignedOp (op : Nat)
  /-- SUB is neither 0 nor 1 on a RING_* command, or not 0 on any other -/
  | badSub (sub : Nat)
  /-- IMM is not 0 on a command that takes none -/
  | badImm (imm : Nat)
  deriving DecidableEq, Repr

/-- OP, bits 31:24 (R120). -/
def cmdOp (w : Word) : Nat := (w.extractLsb' 24 8).toNat

/-- SUB, bits 23:16 (R120). -/
def cmdSub (w : Word) : Nat := (w.extractLsb' 16 8).toNat

/-- IMM, bits 15:0, zero-extended (R120). -/
def cmdImm (w : Word) : Nat := (w.extractLsb' 0 16).toNat

/-- SUB of a RING_* command selects the ring (R120). -/
def decodeRing (sub : Nat) : Except DecodeError Ring :=
  if sub = 0 then .ok .tx else if sub = 1 then .ok .rx else .error (.badSub sub)

/-- A RING_* command that takes an index in IMM. -/
def decodeRingIndex (mk : Ring → Nat → Instr) (sub imm : Nat) : Except DecodeError Instr :=
  match decodeRing sub with
  | .ok r => .ok (mk r imm)
  | .error e => .error e

/-- A RING_* command whose IMM must be 0. -/
def decodeRingOnly (mk : Ring → Instr) (sub imm : Nat) : Except DecodeError Instr :=
  match decodeRing sub with
  | .ok r => if imm = 0 then .ok (mk r) else .error (.badImm imm)
  | .error e => .error e

/-- A command whose SUB and IMM must both be 0. -/
def decodePlain (i : Instr) (sub imm : Nat) : Except DecodeError Instr :=
  if sub = 0 then (if imm = 0 then .ok i else .error (.badImm imm)) else .error (.badSub sub)

/-- R126: a decoder reads OP, then checks SUB and IMM against R125. -/
def decode (w : Word) : Except DecodeError Instr :=
  if cmdOp w = 0x01 then decodeRingOnly .ringInit (cmdSub w) (cmdImm w)
  else if cmdOp w = 0x02 then decodeRingIndex .ringAdvance (cmdSub w) (cmdImm w)
  else if cmdOp w = 0x03 then decodeRingIndex .ringSlot (cmdSub w) (cmdImm w)
  else if cmdOp w = 0x04 then decodeRingIndex .ringMarkEnd (cmdSub w) (cmdImm w)
  else if cmdOp w = 0x10 then decodePlain .syncFlush (cmdSub w) (cmdImm w)
  else if cmdOp w = 0x11 then decodePlain .syncInvalidate (cmdSub w) (cmdImm w)
  else if cmdOp w = 0x20 then decodePlain .txSubmit (cmdSub w) (cmdImm w)
  else if cmdOp w = 0x30 then decodePlain .rxPoll (cmdSub w) (cmdImm w)
  else if cmdOp w = 0x31 then decodePlain .rxRelease (cmdSub w) (cmdImm w)
  else if cmdOp w = 0x40 then decodePlain .linkAdjust (cmdSub w) (cmdImm w)
  else if cmdOp w = 0x50 then decodePlain .devStart (cmdSub w) (cmdImm w)
  else if cmdOp w = 0x51 then decodePlain .devStop (cmdSub w) (cmdImm w)
  else if cmdOp w = 0x52 then decodePlain .devSetMac (cmdSub w) (cmdImm w)
  else .error (.unassignedOp (cmdOp w))

/-- `{OP, SUB, IMM}` (R120, R132). -/
def cmdWord (op sub imm : Nat) : Word :=
  BitVec.ofNat 8 op ++ BitVec.ofNat 8 sub ++ BitVec.ofNat 16 imm

/-- SUB of a ring (R120). -/
def encodeRing : Ring → Nat
  | .tx => 0
  | .rx => 1

/-- The word of a command (R122). -/
def encode : Instr → Word
  | .ringInit r => cmdWord 0x01 (encodeRing r) 0
  | .ringAdvance r index => cmdWord 0x02 (encodeRing r) index
  | .ringSlot r index => cmdWord 0x03 (encodeRing r) index
  | .ringMarkEnd r index => cmdWord 0x04 (encodeRing r) index
  | .syncFlush => cmdWord 0x10 0 0
  | .syncInvalidate => cmdWord 0x11 0 0
  | .txSubmit => cmdWord 0x20 0 0
  | .rxPoll => cmdWord 0x30 0 0
  | .rxRelease => cmdWord 0x31 0 0
  | .linkAdjust => cmdWord 0x40 0 0
  | .devStart => cmdWord 0x50 0 0
  | .devStop => cmdWord 0x51 0 0
  | .devSetMac => cmdWord 0x52 0 0

/-- One row of spec/opcode_table.json: a word is the row's when its bits under the mask are the pattern. -/
structure OpcodeRow where
  mnemonic : String
  mask : Word
  pattern : Word
  deriving DecidableEq, Repr

/-- The match and mask columns of spec/opcode_table.json. -/
def opcodeTable : List OpcodeRow :=
  [⟨"RING_INIT", 0xFFFEFFFF#32, 0x01000000#32⟩,
   ⟨"RING_ADVANCE", 0xFFFE0000#32, 0x02000000#32⟩,
   ⟨"RING_SLOT", 0xFFFE0000#32, 0x03000000#32⟩,
   ⟨"RING_MARK_END", 0xFFFE0000#32, 0x04000000#32⟩,
   ⟨"SYNC_FLUSH", 0xFFFFFFFF#32, 0x10000000#32⟩,
   ⟨"SYNC_INVALIDATE", 0xFFFFFFFF#32, 0x11000000#32⟩,
   ⟨"TX_SUBMIT", 0xFFFFFFFF#32, 0x20000000#32⟩,
   ⟨"RX_POLL", 0xFFFFFFFF#32, 0x30000000#32⟩,
   ⟨"RX_RELEASE", 0xFFFFFFFF#32, 0x31000000#32⟩,
   ⟨"LINK_ADJUST", 0xFFFFFFFF#32, 0x40000000#32⟩,
   ⟨"DEV_START", 0xFFFFFFFF#32, 0x50000000#32⟩,
   ⟨"DEV_STOP", 0xFFFFFFFF#32, 0x51000000#32⟩,
   ⟨"DEV_SET_MAC", 0xFFFFFFFF#32, 0x52000000#32⟩]

/-- The word belongs to the row. -/
def OpcodeRow.holds (row : OpcodeRow) (w : Word) : Bool := w &&& row.mask == row.pattern

/-- The mnemonic of a command, as the opcode table spells it. -/
def Instr.mnemonic : Instr → String
  | .ringInit _ => "RING_INIT"
  | .ringAdvance _ _ => "RING_ADVANCE"
  | .ringSlot _ _ => "RING_SLOT"
  | .ringMarkEnd _ _ => "RING_MARK_END"
  | .syncFlush => "SYNC_FLUSH"
  | .syncInvalidate => "SYNC_INVALIDATE"
  | .txSubmit => "TX_SUBMIT"
  | .rxPoll => "RX_POLL"
  | .rxRelease => "RX_RELEASE"
  | .linkAdjust => "LINK_ADJUST"
  | .devStart => "DEV_START"
  | .devStop => "DEV_STOP"
  | .devSetMac => "DEV_SET_MAC"

/-- The command word made of the low `nbits` bits of `w` (a command is one 32-bit word, R126). -/
def tableWord (nbits w : Nat) : Word := BitVec.ofNat 32 (w % 2 ^ nbits)

/-- What the decoder reads from the word whose bits are `w`, numbered as spec/opcode_table.json numbers them. -/
def decodeTableWord (nbits w : Nat) : Option Instr :=
  match decode (tableWord nbits w) with
  | .ok i => some i
  | .error _ => none

end Sys2Proof
end

