-- ==== Sys2Proof/Config.lean ====
section
/-! DEFINITION. The configuration record of spec/00_scope.md R8 (fixed when an instance is constructed), the
reference configuration of spec/95_test_vectors.md, the types of what the world outside the block supplies
(spec/00_scope.md R7: wire, timer, MAC, cache, PHY collaborator, software agent), and the free values: constants
without a body that supply those inputs where no list of the state does. -/

namespace Sys2Proof

/-- The three hardware profiles (R8, R102; decision D5). -/
inductive Profile where
  | legacy | laterA | laterB
  deriving DecidableEq, Repr, Inhabited

/-- ENDIAN of R8 and R73: the byte order of 32-bit words in memory. -/
inductive Endian where
  | little | big
  deriving DecidableEq, Repr, Inhabited

/-- The positions of descriptor word 0's fields (R8, R100 to R103; decisions D4, D5): parameters whose reference
values are `Layout.reference`. `lenBits` is the width of the LEN field, which starts at bit 0. -/
structure Layout where
  own : Nat
  eorLegacy : Nat
  eorLaterA : Nat
  eorLaterB : Nat
  fts : Nat
  lts : Nat
  lenBits : Nat
  rxErr : Nat
  crcErr : Nat
  ftl : Nat
  runt : Nat
  rxOddNb : Nat
  deriving DecidableEq, Repr, Inhabited

/-- One window of an address translation: a CPU-side (or DMA-side) start, a byte count, and where it is moved to.
A list of windows stands for a function on 32-bit addresses: the first window that holds the address moves it, an
address in no window is left alone. Windows of one byte make every such function a list (D9: `to_dma` is total,
its default is the identity, the empty list). -/
structure Window where
  start : Word
  size : Nat
  target : Word
  deriving DecidableEq, Repr, Inhabited

/-- The configuration record of R8. `lineLog` gives LINE = 2^(lineLog + 4), so that LINE is a power of two and at
least 16 by construction (R326 (b)). `ifmode` is any number; only the seven codes of R124 are well formed.
`descAlign` is DESC_ALIGN, a parameter like the other three literals of D47; its normative value is 16 (log entry 30). -/
structure Config where
  profile : Profile
  layout : Layout
  descWords : Nat
  descSize : Nat
  descAlign : Nat
  bufWord : Nat
  txCap : Nat
  rxCap : Nat
  minFrame : Nat
  txTimeoutMs : Nat
  mdioTimeoutMs : Nat
  resetBounded : Bool
  resetTimeoutMs : Option Nat
  resetCompletes : Bool
  coherent : Bool
  lineLog : Nat
  endian : Endian
  toDmaMap : List Window
  fromDmaMap : List Window
  txBase : Word
  rxBase : Word
  rxBuf : List Word
  rxBufSize : Nat
  ifmode : Nat
  gigCapable : List Nat
  noNeg : List Nat
  mmioBase : Word
  startExtra : Word
  stopClearsAll : Bool
  macAddr : BitVec 48
  deriving DecidableEq, Repr, Inhabited

/-- The reference bit positions of R100 to R103 (decisions D4 and D5). -/
def Layout.reference : Layout where
  own := 31
  eorLegacy := 15
  eorLaterA := 30
  eorLaterB := 30
  fts := 29
  lts := 28
  lenBits := 14
  rxErr := 18
  crcErr := 19
  ftl := 20
  runt := 21
  rxOddNb := 22

/-- Reference configuration CFG-A (spec/95_test_vectors.md). DESIGN CHOICE (log entry 2): CFG-A names no MMIO_BASE,
which no rule reads but the register map, and no RESET_TIMEOUT_MS, which no rule reads (R301). -/
def Config.reference : Config where
  profile := .laterA
  layout := Layout.reference
  descWords := 4
  descSize := 16
  descAlign := 16
  bufWord := 1
  txCap := 4
  rxCap := 4
  minFrame := 60
  txTimeoutMs := 1000
  mdioTimeoutMs := 10
  resetBounded := true
  resetTimeoutMs := none
  resetCompletes := true
  coherent := false
  lineLog := 0
  endian := .little
  toDmaMap := []
  fromDmaMap := []
  txBase := 0x1000#32
  rxBase := 0x4000#32
  rxBuf := [0x8000#32, 0x8600#32, 0x8C00#32, 0x9200#32]
  rxBufSize := 1536
  ifmode := 2
  gigCapable := [2, 3, 4, 5]
  noNeg := [6]
  mmioBase := 0#32
  startExtra := 0x00021500#32
  stopClearsAll := false
  macAddr := 0x02005E102030#48

/-! ## What the world outside supplies -/

/-- The stored MAC registers of R110, one field each. NPTXPD has no stored state (R40). MACCR's bit 31 is
`State.macRst` and is kept 0 here (R54, R324). -/
structure MacRegs where
  isr : Word
  ier : Word
  macMadr : Word
  macLadr : Word
  rxpd : Word
  nptxrBadr : Word
  rxrBadr : Word
  aptc : Word
  dblac : Word
  rbsr : Word
  maccr : Word
  phycr : Word
  phydata : Word
  deriving DecidableEq, Repr, Inhabited

/-- A frame offered by the wire (R230): its bytes and its status word x. -/
structure Frame where
  bytes : List Byte
  status : Word
  deriving DecidableEq, Repr, Inhabited

/-- The speed class of a LinkState (R123). -/
inductive Speed where
  | mbit10 | mbit100 | mbit1000 | other
  deriving DecidableEq, Repr, Inhabited

/-- A LinkState (R13, R123): negotiated speed class, duplex and link-up flag. The interface mode is `Config.ifmode`. -/
structure LinkState where
  speed : Speed
  full : Bool
  up : Bool
  deriving DecidableEq, Repr, Inhabited

/-- The answer of PHY_STARTUP (R276): a LinkState, or TRANSPORT. -/
inductive PhyAnswer where
  | transport
  | link (ls : LinkState)
  deriving DecidableEq, Repr, Inhabited

/-- One access of the software agent while no command runs (R132, R70): a write of ARG0, ARG1 or CMD, an aligned
32-bit access to its own memory through the cache (the address is 4 times the 30-bit word index, so a misaligned
one cannot be written), or nothing. -/
inductive Request where
  | pause
  | writeArg0 (v : Word)
  | writeArg1 (v : Word)
  | writeCmd (w : Word)
  | load (index : BitVec 30)
  | store (index : BitVec 30) (v : Word)
  deriving DecidableEq, Repr, Inhabited

/-- Which agent takes the next atomic step, with the draws that step needs (R7, R11, R12).
`pick` chooses among the lines or bytes that may be next where a rule leaves their order unspecified (R160, R162,
R76). A turn of an agent that is not enabled changes nothing. -/
inductive Turn where
  /-- the software agent: its next phase, or its next access when no command runs -/
  | software (pick : Nat) (phy : PhyAnswer)
  /-- the TX DMA agent (R200); `x` is D4's draw, `reserved` what D4 writes to reserved descriptor words (R104) -/
  | txDma (pick : Nat) (x : Word) (reserved : List (Nat × Word))
  /-- the wire offers a frame to the RX DMA agent (R230 E1) -/
  | wire (f : Frame)
  /-- the RX DMA agent goes on with the frame it holds (R230 E2 to E4) -/
  | rxDma (pick : Nat)
  /-- the cache agent writes back the dirty line of an address, keeping it clean or dropping it (R168) -/
  | cacheWriteBack (a : Word) (keep : Bool)
  /-- the cache agent fills the invalid line of an address (R169) -/
  | cacheFill (a : Word)
  /-- the cache agent drops the clean line of an address (R170) -/
  | cacheDrop (a : Word)
  /-- the MAC agent completes a reset, leaving these register values and DMA pointers (R325) -/
  | mac (regs : MacRegs) (txPtr rxPtr : Word)
  /-- the timer agent (R301) -/
  | timer
  deriving DecidableEq, Repr, Inhabited

/-! ## Free values

No body: nothing in Lean can evaluate one or prove a value of it. Each is applied to the step counter `State.ticks`
(log entries 3 and 4). -/

/-- Which agent steps next, and with which draws, where `State.agenda` names none (R7, R12, R83). -/
opaque Config.freeTurn : Nat → Turn

/-- What the software agent does next, where `State.requests` names nothing (R22, R320). -/
opaque Config.freeRequest : Nat → Request

/-- What a read of the doorbell register would return: it has no stored state and the block never reads it (R40). -/
opaque Config.freeDoorbellRead : Nat → Word

end Sys2Proof
end

