-- ==== Sys2Proof/Machine/State.lean ====
section
/-! DEFINITION. Everything one instance of the block holds (10_state.md R20 to R57), as plain data, the state right
after power-on (R55, R321), and the reasons a step can stop. -/

namespace Sys2Proof

/-- DESIGN CHOICE (log entry 5): R55 leaves every MAC register unspecified at power-on; each is 0 here. -/
def MacRegs.powerOn : MacRegs where
  isr := 0#32
  ier := 0#32
  macMadr := 0#32
  macLadr := 0#32
  rxpd := 0#32
  nptxrBadr := 0#32
  rxrBadr := 0#32
  aptc := 0#32
  dblac := 0#32
  rbsr := 0#32
  maccr := 0#32
  phycr := 0#32
  phydata := 0#32

namespace Machine

/-- The device lifecycle state (R21). -/
inductive Life where
  | stopped | starting | running | error
  deriving DecidableEq, Repr, Inhabited

/-- Status codes of RES0[31:24] (R130). -/
inductive Status where
  | ok | noDesc | txTimeout | noPacket | noLink | config | transport | resetTimeout | badArg | badState | illegal
  deriving DecidableEq, Repr, Inhabited

/-- RING_INIT's phases I2 to I6 (R141), which DEV_START runs too (R259 S6, S7). `todo` are the lines that I5's Flush
has not reached yet (R160). -/
inductive RingPhase where
  | i2
  | i3
  | i4
  | i5 (todo : List Nat)
  | i6
  deriving DecidableEq, Repr, Inhabited

/-- `st.phase` (R23): the next atomic phase of the running command, named as the rule of the command names it. A phase
holds the values its rule's pseudocode carries over from earlier phases (`w`, `n`, `b`, `ls`), and, where it contains a
Flush or an Invalidate, `todo`: the lines that one has not reached yet, since other agents may step between two lines
(R160, R162). `first` is the first phase of any command, and the value while none runs. -/
inductive Phase where
  | first
  | ringInit (p : RingPhase)
  | markM2
  | flushF2 (todo : List Nat)
  | invalidateV2 (todo : List Nat)
  | txT1 (todo : List Nat)
  | txT2 (w : Word)
  | txT3 (w : Word) (todo : List Nat)
  | txT4 (w : Word)
  | txT5 (todo : List Nat)
  | txT6
  | txT7 (todo : List Nat)
  | txT8
  | rxP1 (todo : List Nat)
  | rxP2 (w : Word)
  | rxP2Lines (n : Nat) (b : Word) (todo : List Nat)
  | rxP3 (n : Nat) (b : Word)
  | rxL2
  | rxL2Lines (todo : List Nat)
  | rxL3
  | linkK2 (ls : LinkState)
  | devS2
  | devS3
  | devS4
  | devS5
  | devS6 (p : RingPhase)
  | devS7 (p : RingPhase)
  | devS8
  | devS9
  | devS10
  | devS11
  | devS12 (ls : LinkState)
  | devS13
  | stopX2
  | stopX3
  | setMacA2
  deriving DecidableEq, Repr, Inhabited

/-- `st.txd` (R56): the TX DMA agent's progress through a slot. In `addressed`, `todo` are the byte offsets of the
frame it has not read yet and `buf` the bytes it has (R76: byte transfers in unspecified order). -/
inductive TxProgress where
  | idle
  | fetched (w : Word)
  | addressed (w : Word) (b : Word) (todo : List Nat) (buf : List Byte)
  | sent (w : Word)
  deriving DecidableEq, Repr, Inhabited

/-- `st.rxd` (R56): the RX DMA agent's progress through a delivery. In `addressed`, `todo` are the byte offsets of the
frame it has not written yet. -/
inductive RxProgress where
  | idle
  | fetched (w : Word) (f : Frame)
  | addressed (w : Word) (f : Frame) (d : Word) (todo : List Nat)
  | written (w : Word) (f : Frame)
  deriving DecidableEq, Repr, Inhabited

/-- A valid cache line (R50). A line that is not listed in the cache is Invalid. -/
structure CacheLine where
  bytes : List Byte
  dirty : Bool
  deriving DecidableEq, Repr, Inhabited

/-- `st.mem` (R51): addresses strictly rising, no entry with the value 0 that an unlisted address reads as (log entry 6). -/
abbrev Memory := List Host.Cell

/-- `st.cache` (R50): line addresses strictly rising; a line with no entry is Invalid. -/
abbrev Cache := List (Nat × CacheLine)

/-- The draws of the software agent's current turn (R11): `pick` orders the lines of a Flush or an Invalidate,
`phy` is PHY_STARTUP's answer (R276). Loaded by `step` from the turn; log entry 3. -/
structure Draw where
  pick : Nat
  phy : PhyAnswer
  deriving DecidableEq, Repr, Inhabited

/-- One instance of the block. `cfg` is R8's configuration, which no step writes (log entry 1); `agenda`, `requests`,
`ticks` and `draw` are the model's own: what the environment will do next, and the draws of the current turn (log
entries 3 and 4). Every other field is the state R20 lists. -/
structure State where
  cfg : Config
  life : Life
  cmd : Word
  arg0 : Word
  arg1 : Word
  res0 : Word
  res1 : Word
  busy : Bool
  op : Option Instr
  phase : Phase
  txCur : Nat
  rxCur : Nat
  rxOut : Bool
  rxOutSlot : Nat
  txHwptr : Word
  rxHwptr : Word
  txKick : Bool
  txd : TxProgress
  rxd : RxProgress
  macAddr : BitVec 48
  mac : MacRegs
  macRst : Bool
  mem : Memory
  cache : Cache
  expired : Bool
  wireTx : List (List Byte)
  agenda : List Turn
  requests : List Request
  ticks : Nat
  draw : Draw
  deriving DecidableEq, Repr

/-- The power-on state of an instance with a given configuration (R55, R321). The rule gives life, BUSY, st.op, rx_out,
tx_kick, mac_rst, expired, wire_tx and mac_addr; every other register is unspecified there and has the value of log
entry 5 here. -/
def State.powerOn (c : Config) : State where
  cfg := c
  life := .stopped
  cmd := 0#32
  arg0 := 0#32
  arg1 := 0#32
  res0 := 0#32
  res1 := 0#32
  busy := false
  op := none
  phase := .first
  txCur := 0
  rxCur := 0
  rxOut := false
  rxOutSlot := 0
  txHwptr := 0#32
  rxHwptr := 0#32
  txKick := false
  txd := .idle
  rxd := .idle
  macAddr := c.macAddr
  mac := MacRegs.powerOn
  macRst := false
  mem := []
  cache := []
  expired := false
  wireTx := []
  agenda := []
  requests := []
  ticks := 0
  draw := ⟨0, .transport⟩

/-- The machine right after power-on, under the reference configuration CFG-A. -/
def State.reset : State := State.powerOn Config.reference

/-- The block has no fault: an error is a status of a command (R290), and every 32-bit address is memory (log entry 7).
No step of this machine faults, so the type has no constructor. -/
inductive Fault where
  deriving DecidableEq, Repr

/-- Why a step is refused. -/
inductive Refusal where
  /-- An instruction without a meaning yet, by its mnemonic; raised by `exec`'s arms only. Safe: the machine stops. -/
  | notModelled (mnemonic : String)
  /-- A write of CMD, ARG0 or ARG1 while BUSY = 1 (R22: refused by the model); raised by `softwareAccess`. Safe. No step
  raises it, since the software agent itself runs the command. -/
  | writeWhileBusy
  deriving DecidableEq, Repr

/-- What a meaning or a step answers. -/
abbrev Answer := Host.Outcome State Fault Refusal

end Machine

end Sys2Proof
end

