-- ==== Sys2Proof/Machine/Flags.lean ====
section
/-! DEFINITION. Every flag and field the spec gives: descriptor word 0 (30_encoding.md R100 to R103), the MAC registers'
fields (10_state.md R44 to R47, R111), the status codes (R130) and the result word (R121), and the values the block
computes of them (R112, R181, R200, R230, R240). -/

namespace Sys2Proof

/-! ## Descriptor word 0 (R100 to R103) -/

/-- EOR_BIT of the profile (R102). -/
def Config.eorBit (c : Config) : Nat :=
  match c.profile with
  | .legacy => c.layout.eorLegacy
  | .laterA => c.layout.eorLaterA
  | .laterB => c.layout.eorLaterB

/-- OWN_M (R103). -/
def Config.ownM (c : Config) : Word := bit c.layout.own

/-- EOR_M (R102, R103). -/
def Config.eorM (c : Config) : Word := bit c.eorBit

/-- FTS_M (R103). -/
def Config.ftsM (c : Config) : Word := bit c.layout.fts

/-- LTS_M (R103). -/
def Config.ltsM (c : Config) : Word := bit c.layout.lts

/-- LEN_MAX (R103). -/
def Config.lenMax (c : Config) : Nat := 2 ^ c.layout.lenBits - 1

/-- LEN_M (R103). -/
def Config.lenM (c : Config) : Word := BitVec.ofNat 32 c.lenMax

/-- RXERR_M: the five RX error flags (R101, R103). -/
def Config.rxErrM (c : Config) : Word :=
  bit c.layout.rxErr ||| bit c.layout.crcErr ||| bit c.layout.ftl ||| bit c.layout.runt ||| bit c.layout.rxOddNb

/-- own(w) (R103): 1 means hardware-owned in the TX ring and software-owned in the RX ring (R30). -/
def Config.own (c : Config) (w : Word) : Bool := w.getLsbD c.layout.own

/-- eor(w) (R103). -/
def Config.eor (c : Config) (w : Word) : Bool := w &&& c.eorM != 0#32

/-- len(w) (R103). -/
def Config.len (c : Config) (w : Word) : Nat := (w &&& c.lenM).toNat

/-- rx_bad(w) (R103). -/
def Config.rxBad (c : Config) (w : Word) : Bool := w &&& c.rxErrM != 0#32

/-- What the layout has to satisfy for word 0 to have room for each field: LEN below, OWN, EOR, FTS and LTS above it, OWN
and EOR each a bit of their own, and the buffer address in another word (R100, R101, R104). `Layout.reference` does, for
every profile. -/
def Config.layoutFits (c : Config) : Bool :=
  decide (c.bufWord ≠ 0) && decide (c.layout.fts < 32) && decide (c.layout.lts < 32) &&
  decide (c.layout.own < 32) && decide (c.eorBit < 32) && decide (c.layout.own ≠ c.eorBit) &&
  decide (c.layout.lenBits ≤ c.layout.own) && decide (c.layout.lenBits ≤ c.eorBit) &&
  decide (c.layout.lenBits ≤ c.layout.fts) && decide (c.layout.lenBits ≤ c.layout.lts) &&
  decide (c.layout.own ≠ c.layout.fts) && decide (c.layout.own ≠ c.layout.lts) &&
  decide (c.eorBit ≠ c.layout.fts) && decide (c.eorBit ≠ c.layout.lts)

/-- tx_word0(w, p) (R181): what TX_SUBMIT publishes for a slot whose word 0 was `w`. -/
def Config.txWord0 (c : Config) (w : Word) (p : Nat) : Word :=
  (w &&& c.eorM) ||| c.ownM ||| c.ftsM ||| c.ltsM ||| BitVec.ofNat 32 p

/-- What the TX DMA agent writes back (R200 D4): OWN := 0, EOR and LEN kept, every other bit the draw's. -/
def Config.txDoneWord (c : Config) (w x : Word) : Word :=
  (w &&& (c.eorM ||| c.lenM)) ||| (x &&& ~~~(c.ownM ||| c.eorM ||| c.lenM))

/-- What the RX DMA agent writes at delivery (R230 E4): OWN := 1, EOR kept, LEN := n, every other bit the draw's. -/
def Config.rxDeliverWord (c : Config) (w : Word) (n : Nat) (x : Word) : Word :=
  c.ownM ||| (w &&& c.eorM) ||| BitVec.ofNat 32 n ||| (x &&& ~~~(c.ownM ||| c.eorM ||| c.lenM))

/-- What RX_RELEASE writes (R212 L2): only OWN is cleared. -/
def Config.releaseWord (c : Config) (w : Word) : Word := w &&& ~~~c.ownM

/-- What marking the end of a ring writes (R141 I4, R144 M2): only EOR is set. -/
def Config.markWord (c : Config) (w : Word) : Word := w ||| c.eorM

/-! ## MACCR (R47, R111) -/

namespace Maccr

def txdmaEn : Word := bit 0
def rxdmaEn : Word := bit 1
def txmacEn : Word := bit 2
def rxmacEn : Word := bit 3
def rmVlan : Word := bit 4
def hptxrEn : Word := bit 5
def loopEn : Word := bit 6
def enrxInHalftx : Word := bit 7
def fulldup : Word := bit 8
def gigaMode : Word := bit 9
def crcApd : Word := bit 10
def phyLinkLevel : Word := bit 11
def rxRunt : Word := bit 12
def jumboLf : Word := bit 13
def rxAll : Word := bit 14
def htMultiEn : Word := bit 15
def rxMultipkt : Word := bit 16
def rxBroadpkt : Word := bit 17
def discardCrcerr : Word := bit 18
def fastMode : Word := bit 19
def swRst : Word := bit 31

/-- ENABLE_M (R111). -/
def enableM : Word := txdmaEn ||| rxdmaEn ||| txmacEn ||| rxmacEn

/-- LINK_M: the three fields the link logic owns (R111, R240). -/
def linkM : Word := gigaMode ||| fastMode ||| fulldup

end Maccr

/-- IFMODE ∈ gig_capable (R124). -/
def Config.gigOk (c : Config) : Bool := c.gigCapable.contains c.ifmode

/-- IFMODE ∈ no_neg (R124). -/
def Config.noNegMode (c : Config) : Bool := c.noNeg.contains c.ifmode

/-- link_word(c, ls) (R240): every bit outside LINK_M is the old word's. -/
def Config.linkWord (c : Config) (old : Word) (ls : LinkState) : Word :=
  (old &&& ~~~Maccr.linkM) |||
  (if c.gigOk && ls.speed == .mbit1000 then Maccr.gigaMode else 0#32) |||
  (if ls.speed == .mbit100 then Maccr.fastMode else 0#32) |||
  (if ls.full then Maccr.fulldup else 0#32)

/-! ## The other MAC registers' fields (R44 to R46, R112) -/

/-- APTC.RXPOLL_CNT, bits 3:0 (R44). -/
def aptcRxpollCnt (v : Word) : BitVec 4 := v.extractLsb' 0 4

/-- APTC.RXPOLL_TIME_SEL, bit 4 (R44). -/
def aptcRxpollTimeSel (v : Word) : Bool := v.getLsbD 4

/-- APTC.TXPOLL_CNT, bits 11:8 (R44). -/
def aptcTxpollCnt (v : Word) : BitVec 4 := v.extractLsb' 8 4

/-- APTC.TXPOLL_TIME_SEL, bit 12 (R44). -/
def aptcTxpollTimeSel (v : Word) : Bool := v.getLsbD 12

/-- The APTC value DEV_START writes: RX auto-poll on, TX auto-poll off (R44, R112). -/
def aptcStart : Word := 0x00000001#32

/-- DBLAC.RXFIFO_LTHR, bits 2:0 (R45). -/
def dblacRxfifoLthr (v : Word) : BitVec 3 := v.extractLsb' 0 3

/-- DBLAC.RXFIFO_HTHR, bits 5:3 (R45). -/
def dblacRxfifoHthr (v : Word) : BitVec 3 := v.extractLsb' 3 3

/-- DBLAC.RX_THR_EN, bit 6 (R45). -/
def dblacRxThrEn (v : Word) : Bool := v.getLsbD 6

/-- DBLAC.RXBURST_SIZE, bits 9:8 (R45). -/
def dblacRxburstSize (v : Word) : BitVec 2 := v.extractLsb' 8 2

/-- DBLAC.TXBURST_SIZE, bits 11:10 (R45). -/
def dblacTxburstSize (v : Word) : BitVec 2 := v.extractLsb' 10 2

/-- DBLAC.RXDES_SIZE, bits 15:12, in units of 8 bytes (R45). -/
def dblacRxdesSize (v : Word) : BitVec 4 := v.extractLsb' 12 4

/-- DBLAC.TXDES_SIZE, bits 19:16, in units of 8 bytes (R45). -/
def dblacTxdesSize (v : Word) : BitVec 4 := v.extractLsb' 16 4

/-- DBLAC.IFG_CNT, bits 22:20 (R45). -/
def dblacIfgCnt (v : Word) : BitVec 3 := v.extractLsb' 20 3

/-- DBLAC.IFG_INC, bit 23 (R45). -/
def dblacIfgInc (v : Word) : Bool := v.getLsbD 23

/-- The DBLAC value DEV_START writes over the old value (R45, R112): both descriptor-size fields := DESC_SIZE / 8. -/
def Config.dblacStart (c : Config) (d : Word) : Word :=
  (d &&& ~~~0x000FF000#32) ||| (BitVec.ofNat 32 (c.descSize / 8) <<< 12) ||| (BitVec.ofNat 32 (c.descSize / 8) <<< 16)

/-- The RBSR value DEV_START writes: RX_BUF_SIZE & 0x3FFF (R46, R112). -/
def Config.rbsrStart (c : Config) : Word := BitVec.ofNat 32 c.rxBufSize &&& 0x3FFF#32

/-- MAC_MADR of a station address: {16'b0, mac0, mac1} (R38, R112). -/
def macHigh (m : BitVec 48) : Word := (m.extractLsb' 32 16).setWidth 32

/-- MAC_LADR of a station address: {mac2, mac3, mac4, mac5} (R39, R112). -/
def macLow (m : BitVec 48) : Word := m.extractLsb' 0 32

namespace Machine

/-! ## Status codes and results (R121, R130) -/

/-- The code of a status (R130). -/
def Status.code : Status → BitVec 8
  | .ok => 0x00#8
  | .noDesc => 0x01#8
  | .txTimeout => 0x02#8
  | .noPacket => 0x03#8
  | .noLink => 0x04#8
  | .config => 0x05#8
  | .transport => 0x06#8
  | .resetTimeout => 0x07#8
  | .badArg => 0x08#8
  | .badState => 0x09#8
  | .illegal => 0xFF#8

/-- RES0 = {status[7:0], value[23:0]} (R121). -/
def resultWord (st : Status) (value : Nat) : Word := st.code ++ BitVec.ofNat 24 value

/-- RES0[31:24], the status code a program observes (R53, R121). -/
def State.statusCode (s : State) : BitVec 8 := s.res0.extractLsb' 24 8

/-- RES0[23:0], the value a program observes (R121). -/
def State.resultValue (s : State) : BitVec 24 := s.res0.extractLsb' 0 24

end Machine

end Sys2Proof
end

