-- ==== Sys2Proof/Machine/Operands.lean ====
section
/-! DEFINITION. Operands and addresses: ring geometry (40_ring.md R140, R105), cache lines of a range (R161), address
translation (R71, D9), operand forms of each command (R123, R180, R263), argument checks (R294), the configuration check
(R9, R258), the legality table (R256) and the register map (R110). -/

namespace Sys2Proof

/-! ## Rings (R105, R140) -/

/-- base(r). -/
def Config.base (c : Config) : Ring → Word
  | .tx => c.txBase
  | .rx => c.rxBase

/-- cap(r). -/
def Config.cap (c : Config) : Ring → Nat
  | .tx => c.txCap
  | .rx => c.rxCap

/-- advance_r(i) = (i + 1) mod cap(r). -/
def Config.advance (c : Config) (r : Ring) (i : Nat) : Nat := (i + 1) % c.cap r

/-- slot_r(i) = base(r) + i * DESC_SIZE. -/
def Config.slot (c : Config) (r : Ring) (i : Nat) : Word := c.base r + BitVec.ofNat 32 (i * c.descSize)

/-- word_r(i, k) = slot_r(i) + 4 k. -/
def Config.wordAddr (c : Config) (r : Ring) (i k : Nat) : Word := c.slot r i + BitVec.ofNat 32 (4 * k)

/-- The addresses of every word of every slot of a ring, in order (R141 I2). -/
def Config.ringWords (c : Config) (r : Ring) : List Word :=
  (List.range (c.cap r)).flatMap fun i => (List.range c.descWords).map fun k => c.wordAddr r i k

/-- RXBUF[i] (R8); a slot the list does not reach has address 0 (log entry 8). -/
def Config.rxBufAt (c : Config) (i : Nat) : Word := c.rxBuf.getD i 0#32

/-- The words of a descriptor that are reserved: all but word 0 and word BUF_WORD (R31, R104). -/
def Config.reservedWord (c : Config) (k : Nat) : Bool := decide (k < c.descWords) && k != 0 && k != c.bufWord

/-! ## Addresses (R71, R161) -/

/-- The address is in the window. -/
def Window.holds (v : Window) (a : Word) : Bool := decide ((a - v.start).toNat < v.size)

/-- The function a list of windows stands for. -/
def translate (ws : List Window) (a : Word) : Word :=
  match ws with
  | [] => a
  | v :: rest => if v.holds a then v.target + (a - v.start) else translate rest a

/-- to_dma (R8, D9). -/
def Config.toDma (c : Config) (a : Word) : Word := translate c.toDmaMap a

/-- from_dma (R8, D9). -/
def Config.fromDma (c : Config) (d : Word) : Word := translate c.fromDmaMap d

/-- LINE (R8). -/
def Config.line (c : Config) : Nat := 2 ^ (c.lineLog + 4)

/-- An address rounded down to a multiple of LINE (R80). -/
def Config.lineOf (c : Config) (a : Nat) : Nat := a / c.line * c.line

/-- lines(a, n) (R161), from a rounded down up to a + n - 1 rounded down. -/
def Config.lines (c : Config) (a n : Nat) : List Nat :=
  if n = 0 then []
  else (List.range ((a + n - 1) / c.line - a / c.line + 1)).map fun i => (a / c.line + i) * c.line

/-- The lines a Flush or an Invalidate of a range acts on: none when DMA is coherent (R79, R160, R162). -/
def Config.syncLines (c : Config) (a : Word) (n : Nat) : List Nat :=
  if c.coherent then [] else c.lines a.toNat n

/-- A range that would pass 2^32 (R161, R294). -/
def wraps (a : Word) (n : Nat) : Bool := decide (2 ^ 32 < a.toNat + n)

/-! ## Operands of the commands -/

/-- padded(L) = max(L, MIN_FRAME) (R180). -/
def Config.padded (c : Config) (l : Nat) : Nat := max l c.minFrame

/-- SPEED, bits 1:0 (R123). -/
def speedOf (v : BitVec 2) : Speed :=
  if v = 0#2 then .mbit10 else if v = 1#2 then .mbit100 else if v = 2#2 then .mbit1000 else .other

/-- ARG0 as a LinkState (R123); none when a reserved bit is set. -/
def linkOfArg (w : Word) : Option LinkState :=
  if w.extractLsb' 4 28 = 0#28 then some ⟨speedOf (w.extractLsb' 0 2), w.getLsbD 2, w.getLsbD 3⟩ else none

/-- The code of a speed (R123). -/
def speedCode : Speed → BitVec 2
  | .mbit10 => 0#2
  | .mbit100 => 1#2
  | .mbit1000 => 2#2
  | .other => 3#2

/-- A LinkState packed as R123 says. -/
def linkToArg (ls : LinkState) : Word :=
  0#28 ++ BitVec.ofBool ls.up ++ BitVec.ofBool ls.full ++ speedCode ls.speed

/-- The station address of DEV_SET_MAC's operands (R263): ARG0 holds mac0, mac1 and ARG1 mac2 to mac5. -/
def macOfArgs (arg0 arg1 : Word) : BitVec 48 := arg0.extractLsb' 0 16 ++ arg1

/-! ## The configuration check (R9, R258) -/

/-- A power of two in 1..32768 (R9). -/
def capacityOk (n : Nat) : Bool := (List.range 16).any fun k => 2 ^ k == n

/-- IFMODE is one of the seven codes (R124). -/
def ifmodeOk (m : Nat) : Bool := decide (m < 7)

/-- Well-formedness of the configuration (R9). The rule's alignment of 16 is DESC_ALIGN (R8, R74, D47; log entry 30). -/
def Config.wellFormed (c : Config) : Bool :=
  capacityOk c.txCap && capacityOk c.rxCap &&
  decide (c.descSize % c.descAlign = 0) && decide (c.descSize = 4 * c.descWords) && decide (c.bufWord < c.descWords) &&
  decide (c.txBase.toNat % c.descAlign = 0) && decide (c.rxBase.toNat % c.descAlign = 0) && ifmodeOk c.ifmode

namespace Machine

/-! ## Legality (R256) -/

/-- The lifecycle column of the legality table (R256): the command runs in that state. RX_POLL and RX_RELEASE check
rx_out as well. -/
def legal : Instr → Life → Bool
  | .ringInit _, l => l == .stopped || l == .error
  | .ringAdvance _ _, _ => true
  | .ringSlot _ _, _ => true
  | .ringMarkEnd _ _, l => l == .stopped || l == .error
  | .syncFlush, _ => true
  | .syncInvalidate, _ => true
  | .txSubmit, l => l == .running
  | .rxPoll, l => l == .running
  | .rxRelease, l => l == .running
  | .linkAdjust, l => l == .running
  | .devStart, l => l == .stopped || l == .error
  | .devStop, l => l != .starting
  | .devSetMac, l => l != .starting

/-! ## The register map (R110) -/

/-- The MAC registers the map lists. -/
inductive MacReg where
  | isr | ier | macMadr | macLadr | nptxpd | rxpd | nptxrBadr | rxrBadr | aptc | dblac | rbsr | maccr | phycr | phydata
  deriving DecidableEq, Repr

/-- Offset from MMIO_BASE (R110). -/
def regOffset : MacReg → Word
  | .isr => 0x00#32
  | .ier => 0x04#32
  | .macMadr => 0x08#32
  | .macLadr => 0x0C#32
  | .nptxpd => 0x18#32
  | .rxpd => 0x1C#32
  | .nptxrBadr => 0x20#32
  | .rxrBadr => 0x24#32
  | .aptc => 0x34#32
  | .dblac => 0x38#32
  | .rbsr => 0x4C#32
  | .maccr => 0x50#32
  | .phycr => 0x60#32
  | .phydata => 0x64#32

/-- The MMIO address of a register (R70, R110). -/
def regAddress (c : Config) (r : MacReg) : Word := c.mmioBase + regOffset r

/-- Every register of the map, in the order of R110's table. -/
def allRegs : List MacReg :=
  [.isr, .ier, .macMadr, .macLadr, .nptxpd, .rxpd, .nptxrBadr, .rxrBadr, .aptc, .dblac, .rbsr, .maccr, .phycr, .phydata]

/-- The register at an offset: none when the offset is not in R110's table (the block accesses no other). -/
def regAt (off : Word) : Option MacReg := allRegs.find? fun r => regOffset r == off

/-! ## Addresses in the running state -/

/-- slot_tx(st.tx_cur) (R182). -/
def State.txSlot (s : State) : Word := s.cfg.slot .tx s.txCur

/-- slot_rx(st.rx_cur) (R210). -/
def State.rxSlot (s : State) : Word := s.cfg.slot .rx s.rxCur

/-- slot_rx(st.rx_out_slot) (R212 L2). -/
def State.releaseSlot (s : State) : Word := s.cfg.slot .rx s.rxOutSlot

/-- Word BUF_WORD of the slot at an address (R31, R182). -/
def bufWordOf (c : Config) (slot : Word) : Word := slot + BitVec.ofNat 32 (4 * c.bufWord)

/-- Word `k` of the descriptor at an address (R105). -/
def descWordOf (slot : Word) (k : Nat) : Word := slot + BitVec.ofNat 32 (4 * k)

/-- The padded length of the running TX_SUBMIT (R180, R182): ARG1 is its length operand. -/
def State.txLen (s : State) : Nat := s.cfg.padded s.arg1.toNat

end Machine

end Sys2Proof
end

