-- ==== Sys2Proof/Machine/Ops.lean ====
section
/-! DEFINITION. The named operations every meaning and every agent is written with: memory (R51, R73), the CPU side
through the cache (20_memory.md R79 to R81), the DMA side (R82), flush and invalidate of a line (R160, R162), the MAC
registers (R77, R324), and the ends of a phase and of a command: `proceed`, `finish` and `raise` (R11, R23, R121, R290). -/

namespace Sys2Proof.Machine

/-! ## Memory (R51) -/

/-- One byte; an unlisted address reads 0 (log entry 6). -/
def Memory.read : Memory → Nat → Byte
  | [], _ => 0#8
  | (k, v) :: rest, a => if k = a then v else Memory.read rest a

/-- Store one byte, keeping the list canonical. -/
def Memory.write : Memory → Nat → Byte → Memory
  | [], a, v => if v = 0#8 then [] else [(a, v)]
  | (k, w) :: rest, a, v =>
    if a < k then (if v = 0#8 then (k, w) :: rest else (a, v) :: (k, w) :: rest)
    else if a = k then (if v = 0#8 then rest else (a, v) :: rest)
    else (k, w) :: Memory.write rest a v

/-- Addresses strictly rise from `lo` on, none is past the 32-bit space, and no entry is 0. -/
def Memory.wfFrom : Nat → Memory → Bool
  | _, [] => true
  | lo, (k, v) :: rest => decide (lo ≤ k) && decide (k < 2 ^ 32) && v != 0#8 && Memory.wfFrom (k + 1) rest

/-- The canonical form of memory. -/
def Memory.wf (m : Memory) : Bool := Memory.wfFrom 0 m

/-- `n` bytes from `a` on; addresses wrap modulo 2^32 (R10). -/
def Memory.readBytes (m : Memory) : Word → Nat → List Byte
  | _, 0 => []
  | a, n + 1 => m.read a.toNat :: Memory.readBytes m (a + 1#32) n

/-- A byte string stored from `a` on; addresses wrap modulo 2^32 (R10). -/
def Memory.writeBytes : Memory → Word → List Byte → Memory
  | m, _, [] => m
  | m, a, b :: rest => Memory.writeBytes (Memory.write m a.toNat b) (a + 1#32) rest

/-- The bytes of a word in memory, lowest address first (R73). -/
def wordBytes (e : Endian) (v : Word) : List Byte :=
  match e with
  | .little => [v.extractLsb' 0 8, v.extractLsb' 8 8, v.extractLsb' 16 8, v.extractLsb' 24 8]
  | .big => [v.extractLsb' 24 8, v.extractLsb' 16 8, v.extractLsb' 8 8, v.extractLsb' 0 8]

/-- The word that four bytes of memory hold, lowest address first (R73). -/
def bytesWord (e : Endian) (b : List Byte) : Word :=
  match e with
  | .little => b.getD 3 0#8 ++ b.getD 2 0#8 ++ b.getD 1 0#8 ++ b.getD 0 0#8
  | .big => b.getD 0 0#8 ++ b.getD 1 0#8 ++ b.getD 2 0#8 ++ b.getD 3 0#8

/-- `DmaRead32` on a memory (R11, R82). -/
def Memory.readWord (m : Memory) (e : Endian) (d : Word) : Word := bytesWord e (m.readBytes d 4)

/-- `DmaWrite32` on a memory (R11, R82). -/
def Memory.writeWord (m : Memory) (e : Endian) (d : Word) (v : Word) : Memory := m.writeBytes d (wordBytes e v)

/-! ## The cache (R50) -/

/-- The line at a line address; none when it is Invalid. -/
def Cache.get : Cache → Nat → Option CacheLine
  | [], _ => none
  | (k, l) :: rest, a => if k = a then some l else Cache.get rest a

/-- Make the line at `a` Valid with this content, keeping the list canonical. -/
def Cache.put : Cache → Nat → CacheLine → Cache
  | [], a, l => [(a, l)]
  | (k, x) :: rest, a, l =>
    if a < k then (a, l) :: (k, x) :: rest
    else if a = k then (a, l) :: rest
    else (k, x) :: Cache.put rest a l

/-- Make the line at `a` Invalid. -/
def Cache.drop : Cache → Nat → Cache
  | [], _ => []
  | (k, x) :: rest, a => if k = a then Cache.drop rest a else (k, x) :: Cache.drop rest a

/-- Line addresses strictly rise from `lo` on, none is past the 32-bit space, each is a multiple of LINE, and each line has
LINE bytes. -/
def Cache.wfFrom (line : Nat) : Nat → Cache → Bool
  | _, [] => true
  | lo, (k, l) :: rest =>
    decide (lo ≤ k) && decide (k < 2 ^ 32) && decide (k % line = 0) && decide (l.bytes.length = line) &&
      Cache.wfFrom line (k + 1) rest

/-- The canonical form of the cache. -/
def Cache.wf (c : Config) (x : Cache) : Bool := Cache.wfFrom c.line 0 x

/-- The bytes of a line over the old ones from an offset on; a byte past the line's end is dropped. -/
def setBytes : List Byte → Nat → List Byte → List Byte
  | bs, _, [] => bs
  | bs, off, b :: rest => setBytes (bs.set off b) (off + 1) rest

/-- Memory and cache together: what a CPU-side access reads and changes. -/
structure Store where
  mem : Memory
  cache : Cache
  deriving DecidableEq, Repr

/-- The bytes of memory under the line at `l` (R80: `st.mem[to_dma(L) .. to_dma(L)+LINE-1]`). -/
def lineBytes (c : Config) (m : Memory) (l : Nat) : List Byte := m.readBytes (c.toDma (BitVec.ofNat 32 l)) c.line

/-- Make the line at `l` Valid: a valid line is left alone, an invalid one is filled from memory, clean (R80, R81). -/
def Store.fill (c : Config) (l : Nat) (x : Store) : Store :=
  match x.cache.get l with
  | some _ => x
  | none => ⟨x.mem, x.cache.put l ⟨lineBytes c x.mem l, false⟩⟩

/-- The word at `off` in the line at `l`. -/
def Store.lineWord (e : Endian) (l off : Nat) (x : Store) : Word :=
  match x.cache.get l with
  | some line => bytesWord e (line.bytes.drop off)
  | none => 0#32

/-- Write a word at `off` into the line at `l` and make it dirty (R81). -/
def Store.setLineWord (e : Endian) (l off : Nat) (v : Word) (x : Store) : Store :=
  match x.cache.get l with
  | some line => ⟨x.mem, x.cache.put l ⟨setBytes line.bytes off (wordBytes e v), true⟩⟩
  | none => x

/-- What `MemRead32(a)` returns (R79, R80). -/
def Store.cpuWord (c : Config) (a : Word) (x : Store) : Word :=
  if c.coherent then x.mem.readWord c.endian (c.toDma a)
  else (x.fill c (c.lineOf a.toNat)).lineWord c.endian (c.lineOf a.toNat) (a.toNat - c.lineOf a.toNat)

/-- What `MemRead32(a)` leaves: an invalid line is filled in the same phase (R12, R80). -/
def Store.afterRead (c : Config) (a : Word) (x : Store) : Store :=
  if c.coherent then x else x.fill c (c.lineOf a.toNat)

/-- `MemWrite32(a, v)` (R79, R81). -/
def Store.cpuWrite (c : Config) (a v : Word) (x : Store) : Store :=
  if c.coherent then ⟨x.mem.writeWord c.endian (c.toDma a) v, x.cache⟩
  else (x.fill c (c.lineOf a.toNat)).setLineWord c.endian (c.lineOf a.toNat) (a.toNat - c.lineOf a.toNat) v

/-- `MemWrite32` of each address and value in order (R12). -/
def Store.cpuWriteAll (c : Config) : List (Word × Word) → Store → Store
  | [], x => x
  | (a, v) :: rest, x => Store.cpuWriteAll c rest (x.cpuWrite c a v)

/-- One line of a Flush, one atomic step: a dirty line is written to memory whole, and the line ends Invalid (R160). -/
def Store.flushLine (c : Config) (l : Nat) (x : Store) : Store :=
  match x.cache.get l with
  | some line =>
    ⟨if line.dirty then x.mem.writeBytes (c.toDma (BitVec.ofNat 32 l)) line.bytes else x.mem, x.cache.drop l⟩
  | none => x

/-- One line of an Invalidate, one atomic step: the line ends Invalid, dirty data is discarded (R162). -/
def Store.invalidateLine (l : Nat) (x : Store) : Store := ⟨x.mem, x.cache.drop l⟩

/-! ## The same on the state -/

/-- The memory and the cache of a state. -/
def State.store (s : State) : Store := ⟨s.mem, s.cache⟩

/-- A state with another memory and cache. -/
def State.withStore (s : State) (x : Store) : State := { s with mem := x.mem, cache := x.cache }

/-- `MemRead32(a)`: the word (R11). -/
def State.memRead (s : State) (a : Word) : Word := s.store.cpuWord s.cfg a

/-- `MemRead32(a)`: the state after it (R11). -/
def State.memReadState (s : State) (a : Word) : State := s.withStore (s.store.afterRead s.cfg a)

/-- `MemWrite32(a, v)` (R11). -/
def State.memWrite (s : State) (a v : Word) : State := s.withStore (s.store.cpuWrite s.cfg a v)

/-- A list of `MemWrite32`s in one phase (R11, R12). -/
def State.memWriteAll (s : State) (ws : List (Word × Word)) : State := s.withStore (s.store.cpuWriteAll s.cfg ws)

/-- One line of a Flush (R160). -/
def State.flushLine (s : State) (l : Nat) : State := s.withStore (s.store.flushLine s.cfg l)

/-- One line of an Invalidate (R162). -/
def State.invalidateLine (s : State) (l : Nat) : State := s.withStore (s.store.invalidateLine l)

/-- `DmaRead32(d)` (R11, R82): memory itself, the cache is not consulted. -/
def State.dmaRead (s : State) (d : Word) : Word := s.mem.readWord s.cfg.endian d

/-- `DmaWrite32(d, v)` (R11, R82): memory itself, the cache is not changed. -/
def State.dmaWrite (s : State) (d v : Word) : State := { s with mem := s.mem.writeWord s.cfg.endian d v }

/-- A list of `DmaWrite32`s (R104). -/
def State.dmaWriteAll (s : State) : List (Word × Word) → State
  | [] => s
  | (d, v) :: rest => State.dmaWriteAll (s.dmaWrite d v) rest

/-- What the CPU side sees at an address: the cached copy if the line is Valid, else memory (R79, R80). -/
def State.cpuByte (s : State) (a : Word) : Byte :=
  if s.cfg.coherent then s.mem.read (s.cfg.toDma a).toNat
  else
    match s.cache.get (s.cfg.lineOf a.toNat) with
    | some line => line.bytes.getD (a.toNat - s.cfg.lineOf a.toNat) 0#8
    | none => s.mem.read (s.cfg.toDma (BitVec.ofNat 32 (s.cfg.lineOf a.toNat)) +
        BitVec.ofNat 32 (a.toNat - s.cfg.lineOf a.toNat)).toNat

/-- Word 0, or any word, of a descriptor as memory (and so the DMA side) has it. -/
def State.ramWord (s : State) (a : Word) : Word := s.dmaRead (s.cfg.toDma a)

/-! ## Orders left open (R76, R160, R162) -/

/-- One element of a list, chosen by a draw, and the list without it. -/
def takePick (pick : Nat) (todo : List Nat) : Option (Nat × List Nat) :=
  match todo with
  | [] => none
  | x :: rest =>
    some ((x :: rest).getD (pick % (rest.length + 1)) x, (x :: rest).eraseIdx (pick % (rest.length + 1)))

/-! ## MAC registers (R77, R324) -/

/-- `RegRead` (R11): no read has a side effect (R77). MACCR bit 31 reads st.mac_rst (R54, R324). -/
def State.regRead (s : State) : MacReg → Word
  | .isr => s.mac.isr
  | .ier => s.mac.ier
  | .macMadr => s.mac.macMadr
  | .macLadr => s.mac.macLadr
  | .nptxpd => Config.freeDoorbellRead s.ticks
  | .rxpd => s.mac.rxpd
  | .nptxrBadr => s.mac.nptxrBadr
  | .rxrBadr => s.mac.rxrBadr
  | .aptc => s.mac.aptc
  | .dblac => s.mac.dblac
  | .rbsr => s.mac.rbsr
  | .maccr => if s.macRst then s.mac.maccr ||| Maccr.swRst else s.mac.maccr
  | .phycr => s.mac.phycr
  | .phydata => s.mac.phydata

/-- `RegWrite` (R11), with the side effects there are: a write of NPTXPD sets the kick (R28, R77), a write of MACCR with
bit 31 = 1 starts a MAC reset and one with bit 31 = 0 ends none (R77, R324), a write of a ring base register sets the
DMA pointer (R27). -/
def State.regWrite (s : State) (r : MacReg) (v : Word) : State :=
  match r with
  | .isr => { s with mac := { s.mac with isr := v } }
  | .ier => { s with mac := { s.mac with ier := v } }
  | .macMadr => { s with mac := { s.mac with macMadr := v } }
  | .macLadr => { s with mac := { s.mac with macLadr := v } }
  | .nptxpd => { s with txKick := true }
  | .rxpd => { s with mac := { s.mac with rxpd := v } }
  | .nptxrBadr => { s with mac := { s.mac with nptxrBadr := v }, txHwptr := v }
  | .rxrBadr => { s with mac := { s.mac with rxrBadr := v }, rxHwptr := v }
  | .aptc => { s with mac := { s.mac with aptc := v } }
  | .dblac => { s with mac := { s.mac with dblac := v } }
  | .rbsr => { s with mac := { s.mac with rbsr := v } }
  | .maccr => { s with mac := { s.mac with maccr := v &&& ~~~Maccr.swRst }, macRst := s.macRst || v.getLsbD 31 }
  | .phycr => { s with mac := { s.mac with phycr := v } }
  | .phydata => { s with mac := { s.mac with phydata := v } }

/-! ## Cursors (R24) -/

/-- cur(r) (R140). -/
def State.cur (s : State) : Ring → Nat
  | .tx => s.txCur
  | .rx => s.rxCur

/-- RING_INIT's I6: cur(r) := 0, and rx_out := 0 for the RX ring (R141). -/
def State.rewind (s : State) : Ring → State
  | .tx => { s with txCur := 0 }
  | .rx => { s with rxCur := 0, rxOut := false }

/-! ## The end of a phase and of a command (R11, R23, R121, R290) -/

/-- A command ends: RES0 and RES1 are written, BUSY := 0 and st.op := none (R121, R290). This is all that taking an
error does; no other state is saved and no control is transferred (R290, R297). -/
def State.endCommand (s : State) (st : Status) (value : Nat) (r1 : Word) : State :=
  { s with res0 := resultWord st value, res1 := r1, busy := false, op := none, phase := .first }

/-- `finish v0, v1` (R11): status OK. -/
def finish (value : Nat) (r1 : Word) (s : State) : Answer := .next (s.endCommand .ok value r1)

/-- `raise S` (R11): value and RES1 are 0 on a status other than OK (R121). -/
def raise (st : Status) (s : State) : Answer := .next (s.endCommand st 0 0#32)

/-- The command goes on at another phase (R12, R23): BUSY = 1 and st.op names it. -/
def proceed (i : Instr) (p : Phase) (s : State) : Answer := .next { s with busy := true, op := some i, phase := p }

/-- A phase that contains a Flush or an Invalidate (R160, R162): one line is done by `act`; the last line and what the
phase does after it are one atomic step (R12), before that the phase goes on with the lines that are left. Each line is
taken once, as R160's and R162's loops have it: a line that the cache agent fills again while others are left is not taken
a second time (DEDUCED, log entry 29). -/
def syncLine (i : Instr) (act : State → Nat → State) (again : List Nat → Phase) (done : State → Answer)
    (todo : List Nat) (s : State) : Answer :=
  match takePick s.draw.pick todo with
  | none => done s
  | some (l, rest) => if rest.isEmpty then done (act s l) else proceed i (again rest) (act s l)

end Sys2Proof.Machine
end

