-- ==== Sys2Proof/Machine/Agents.lean ====
section
/-! DEFINITION. One atomic step of each agent but the software agent (00_scope.md R7): the TX DMA agent (42_tx.md R200),
the wire and the RX DMA agent (43_rx.md R230), the cache agent (41_coherency.md R168 to R170), the MAC agent
(70_reset_and_hazards.md R325) and the timer (60_exceptions.md R301). A turn of an agent that is not enabled changes
nothing. -/

namespace Sys2Proof.Machine

/-! ## The TX DMA agent (R200) -/

/-- MACCR.TXDMA_EN = MACCR.TXMAC_EN = 1 and no MAC reset in progress (R200, D44). -/
def State.txEnabled (s : State) : Bool := !s.macRst && s.mac.maccr.getLsbD 0 && s.mac.maccr.getLsbD 2

/-- The ring pointer after a finished slot (R27): the ring base register if the slot's word 0 has EOR, else the next. -/
def nextPointer (c : Config) (w base ptr : Word) : Word :=
  if c.eor w then base else ptr + BitVec.ofNat 32 c.descSize

/-- D3 for one byte, or the end of D3 when no byte is left (R200, R76): the frame goes onto the wire when its last byte
has been read. -/
def txReadByte (pick : Nat) (w b : Word) (todo : List Nat) (buf : List Byte) (s : State) : State :=
  match takePick pick todo with
  | none => { s with wireTx := s.wireTx ++ [buf], txd := .sent w }
  | some (k, rest) =>
    if rest.isEmpty then
      { s with wireTx := s.wireTx ++ [buf.set k (s.mem.read (b + BitVec.ofNat 32 k).toNat)], txd := .sent w }
    else { s with txd := .addressed w b rest (buf.set k (s.mem.read (b + BitVec.ofNat 32 k).toNat)) }

/-- The writes of a draw to reserved descriptor words of the slot at the DMA pointer (R104; log entry 9). -/
def reservedWrites (c : Config) (ptr : Word) (l : List (Nat × Word)) : List (Word × Word) :=
  (l.filter fun kv => c.reservedWord kv.1).map fun kv => (descWordOf ptr kv.1, kv.2)

/-- One step of the TX DMA agent (R200). -/
def txDmaTurn (pick : Nat) (x : Word) (reserved : List (Nat × Word)) (s : State) : State :=
  if s.txEnabled then
    match s.txd with
    | .idle =>
      if s.txKick then
        (if s.cfg.own (s.dmaRead s.txHwptr) then { s with txd := .fetched (s.dmaRead s.txHwptr) }
         else { s with txKick := false })
      else s
    | .fetched w =>
      { s with txd := .addressed w (s.dmaRead (bufWordOf s.cfg s.txHwptr)) (List.range (s.cfg.len w))
                        (List.replicate (s.cfg.len w) 0#8) }
    | .addressed w b todo buf => txReadByte pick w b todo buf s
    | .sent w =>
      { (s.dmaWriteAll (reservedWrites s.cfg s.txHwptr reserved)).dmaWrite s.txHwptr (s.cfg.txDoneWord w x) with
        txHwptr := nextPointer s.cfg w s.mac.nptxrBadr s.txHwptr
        txd := .idle }
  else s

/-! ## The wire and the RX DMA agent (R230) -/

/-- MACCR.RXDMA_EN = MACCR.RXMAC_EN = 1 and no MAC reset in progress (R230, D44). -/
def State.rxEnabled (s : State) : Bool := !s.macRst && s.mac.maccr.getLsbD 1 && s.mac.maccr.getLsbD 3

/-- E1: a frame is offered (R230). It is lost when the agent is disabled or busy or the slot is software-owned; a frame
longer than RX_BUF_SIZE is no draw of the rule and is not offered. -/
def wireTurn (f : Frame) (s : State) : State :=
  if s.rxEnabled && decide (f.bytes.length ≤ s.cfg.rxBufSize) then
    match s.rxd with
    | .idle =>
      if s.cfg.own (s.dmaRead s.rxHwptr) then s else { s with rxd := .fetched (s.dmaRead s.rxHwptr) f }
    | .fetched _ _ => s
    | .addressed _ _ _ _ => s
    | .written _ _ => s
  else s

/-- E3 for one byte, or the end of E3 when no byte is left (R230, R76). -/
def rxWriteByte (pick : Nat) (w : Word) (f : Frame) (d : Word) (todo : List Nat) (s : State) : State :=
  match takePick pick todo with
  | none => { s with rxd := .written w f }
  | some (k, rest) =>
    { s with
      mem := Memory.write s.mem (d + BitVec.ofNat 32 k).toNat (f.bytes.getD k 0#8)
      rxd := if rest.isEmpty then .written w f else .addressed w f d rest }

/-- One step of the RX DMA agent on the frame it holds (R230 E2 to E4). -/
def rxDmaTurn (pick : Nat) (s : State) : State :=
  if s.rxEnabled then
    match s.rxd with
    | .idle => s
    | .fetched w f =>
      { s with rxd := .addressed w f (s.dmaRead (bufWordOf s.cfg s.rxHwptr)) (List.range f.bytes.length) }
    | .addressed w f d todo => rxWriteByte pick w f d todo s
    | .written w f =>
      { s.dmaWrite s.rxHwptr (s.cfg.rxDeliverWord w f.bytes.length f.status) with
        rxHwptr := nextPointer s.cfg w s.mac.rxrBadr s.rxHwptr
        rxd := .idle }
  else s

/-! ## The cache agent (R168 to R170) -/

/-- The line of an address. -/
def lineAt (c : Config) (a : Word) : Nat := c.lineOf a.toNat

/-- R168: a dirty line is written back whole and stays Valid clean or becomes Invalid, in one step. -/
def cacheWriteBackTurn (a : Word) (keep : Bool) (s : State) : State :=
  if s.cfg.coherent then s
  else
    match s.cache.get (lineAt s.cfg a) with
    | some line =>
      if line.dirty then
        { s with
          mem := s.mem.writeBytes (s.cfg.toDma (BitVec.ofNat 32 (lineAt s.cfg a))) line.bytes
          cache := if keep then s.cache.put (lineAt s.cfg a) ⟨line.bytes, false⟩ else s.cache.drop (lineAt s.cfg a) }
      else s
    | none => s

/-- R169: an Invalid line is filled from memory. -/
def cacheFillTurn (a : Word) (s : State) : State :=
  if s.cfg.coherent then s else s.withStore (s.store.fill s.cfg (lineAt s.cfg a))

/-- R170: a clean line becomes Invalid. -/
def cacheDropTurn (a : Word) (s : State) : State :=
  if s.cfg.coherent then s
  else
    match s.cache.get (lineAt s.cfg a) with
    | some line => if line.dirty then s else { s with cache := s.cache.drop (lineAt s.cfg a) }
    | none => s

/-! ## The MAC agent and the timer (R325, R301) -/

/-- Reset completion (R325): SW_RST and the four enable bits read 0, the kick is gone, a slot in progress is abandoned,
and every other register bit and both DMA pointers are what the draw says. -/
def macTurn (regs : MacRegs) (txPtr rxPtr : Word) (s : State) : State :=
  if s.macRst then
    { s with
      macRst := false
      mac := { regs with maccr := regs.maccr &&& ~~~(Maccr.swRst ||| Maccr.enableM) }
      txKick := false
      txd := .idle
      rxd := .idle
      txHwptr := txPtr
      rxHwptr := rxPtr }
  else s

/-- A bounded wait is running (R299 to R301): TX_SUBMIT's T7, or DEV_START's S4 when RESET_BOUNDED. -/
def State.waiting (s : State) : Bool :=
  s.busy &&
    match s.phase with
    | .txT7 _ => true
    | .devS4 => s.cfg.resetBounded
    | _ => false

/-- The timer agent (R301): it sets st.expired inside a wait, never outside one. -/
def timerTurn (s : State) : State := if s.waiting then { s with expired := true } else s

end Sys2Proof.Machine
end

