-- ==== Sys2Proof/Machine/Coherency.lean ====
section
/-! DEFINITION. SYNC_FLUSH and SYNC_INVALIDATE (41_coherency.md R160 to R164). -/

namespace Sys2Proof.Machine

/-- SYNC_FLUSH a, n with a in ARG0 and n in ARG1 (R163). -/
def execSyncFlush (s : State) : Answer :=
  match s.phase with
  | .flushF2 todo => syncLine .syncFlush State.flushLine .flushF2 (finish 0 0#32) todo s
  | _ =>
    if wraps s.arg0 s.arg1.toNat then raise .badArg s
    else proceed .syncFlush (.flushF2 (s.cfg.syncLines s.arg0 s.arg1.toNat)) s

/-- SYNC_INVALIDATE a, n with a in ARG0 and n in ARG1 (R164). -/
def execSyncInvalidate (s : State) : Answer :=
  match s.phase with
  | .invalidateV2 todo => syncLine .syncInvalidate State.invalidateLine .invalidateV2 (finish 0 0#32) todo s
  | _ =>
    if wraps s.arg0 s.arg1.toNat then raise .badArg s
    else proceed .syncInvalidate (.invalidateV2 (s.cfg.syncLines s.arg0 s.arg1.toNat)) s

end Sys2Proof.Machine
end

