-- ==== Sys2Proof/Machine/Link.lean ====
section
/-! DEFINITION. The link-apply procedure and LINK_ADJUST (44_link.md R240 to R244). -/

namespace Sys2Proof.Machine

/-- The link is down and IFMODE is no no-negotiation mode: link_apply raises NO_LINK (R242). -/
def linkRefused (c : Config) (ls : LinkState) : Bool := !ls.up && !c.noNegMode

/-- The MACCR word link_apply writes (R240, R242). -/
def State.linkResult (s : State) (ls : LinkState) : Word := s.cfg.linkWord (s.regRead .maccr) ls

/-- link_apply's one read and one write of MACCR (R242). -/
def State.linkWrite (s : State) (ls : LinkState) : State := s.regWrite .maccr (s.linkResult ls)

/-- LINK_ADJUST ls with ls in ARG0 (R243), phases K1 and K2. -/
def execLinkAdjust (s : State) : Answer :=
  match s.phase with
  | .linkK2 ls => if linkRefused s.cfg ls then raise .noLink s else finish 0 (s.linkResult ls) (s.linkWrite ls)
  | _ =>
    if legal .linkAdjust s.life then
      match linkOfArg s.arg0 with
      | some ls => proceed .linkAdjust (.linkK2 ls) s
      | none => raise .badArg s
    else raise .badState s

end Sys2Proof.Machine
end

