-- ==== Sys2Proof/Machine/RingFamily.lean ====
section
/-! DEFINITION. RING_INIT, RING_ADVANCE, RING_SLOT and RING_MARK_END (40_ring.md R140 to R144). -/

namespace Sys2Proof

/-- RX buffer addresses into word BUF_WORD of every slot (R141 I3). -/
def Config.armWrites (c : Config) : List (Word × Word) :=
  (List.range c.rxCap).map fun i => (c.wordAddr .rx i c.bufWord, c.toDma (c.rxBufAt i))

/-- Zero writes over every word of a ring (R141 I2). -/
def Config.zeroWrites (c : Config) (r : Ring) : List (Word × Word) := (c.ringWords r).map fun a => (a, 0#32)

/-- The address of word 0 of a ring's last slot (R141 I4). -/
def Config.endWord (c : Config) (r : Ring) : Word := c.wordAddr r (c.cap r - 1) 0

/-- The lines of a whole ring (R141 I5). -/
def Config.ringLines (c : Config) (r : Ring) : List Nat := c.syncLines (c.base r) (c.cap r * c.descSize)

namespace Machine

/-- Set EOR in the word 0 at an address by a CPU-side read-modify-write (R141 I4, R144 M2). -/
def State.markEndAt (s : State) (a : Word) : State :=
  (s.memReadState a).memWrite a (s.cfg.markWord (s.memRead a))

/-- One step of RING_INIT's phases I2 to I6 (R141), shared with DEV_START's S6 and S7 (R259): the state after it, and
the phase that comes next, none after I6. I5's Flush takes each line once (DEDUCED, log entry 29). -/
def ringInitStep (r : Ring) (p : RingPhase) (s : State) : State × Option RingPhase :=
  match p with
  | .i2 => (s.memWriteAll (s.cfg.zeroWrites r), some .i3)
  | .i3 =>
    match r with
    | .tx => (s, some .i4)
    | .rx => (s.memWriteAll (s.cfg.armWrites), some .i4)
  | .i4 => (s.markEndAt (s.cfg.endWord r), some (.i5 (s.cfg.ringLines r)))
  | .i5 todo =>
    match takePick s.draw.pick todo with
    | none => (s, some .i6)
    | some (l, rest) => (s.flushLine l, if rest.isEmpty then some .i6 else some (.i5 rest))
  | .i6 => (s.rewind r, none)

/-- RING_INIT r (R141). -/
def execRingInit (r : Ring) (s : State) : Answer :=
  match s.phase with
  | .ringInit p =>
    match ringInitStep r p s with
    | (s', some q) => proceed (.ringInit r) (.ringInit q) s'
    | (s', none) => finish 0 0#32 s'
  | _ => if legal (.ringInit r) s.life then proceed (.ringInit r) (.ringInit .i2) s else raise .badState s

/-- RING_ADVANCE r, i (R142): legal in every state, moves no cursor. -/
def execRingAdvance (r : Ring) (index : Nat) (s : State) : Answer := finish (s.cfg.advance r index) 0#32 s

/-- RING_SLOT r, i (R143): reads no memory. -/
def execRingSlot (r : Ring) (index : Nat) (s : State) : Answer :=
  if s.cfg.cap r ≤ index then raise .badArg s else finish 0 (s.cfg.slot r index) s

/-- RING_MARK_END r, i (R144): lifecycle before argument (R295). -/
def execRingMarkEnd (r : Ring) (index : Nat) (s : State) : Answer :=
  match s.phase with
  | .markM2 => finish 0 0#32 (s.markEndAt (s.cfg.wordAddr r index 0))
  | _ =>
    if legal (.ringMarkEnd r index) s.life then
      (if index + 1 = s.cfg.cap r then proceed (.ringMarkEnd r index) .markM2 s else raise .badArg s)
    else raise .badState s

end Machine

end Sys2Proof
end

