-- ==== Sys2Proof/Machine/Device.lean ====
section
/-! DEFINITION. DEV_START, DEV_STOP and DEV_SET_MAC (45_device.md R255 to R263). -/

namespace Sys2Proof.Machine

/-- S3: the reset write, a read-modify-write of MACCR that sets SW_RST, and the start of the reset wait (R259). -/
def State.startReset (s : State) : State :=
  { s.regWrite .maccr (s.regRead .maccr ||| Maccr.swRst) with expired := false }

/-- S5: the station address into its two registers (R259, R57). -/
def State.programMac (s : State) : State :=
  (s.regWrite .macMadr (macHigh s.macAddr)).regWrite .macLadr (macLow s.macAddr)

/-- S9: ring bases, poll timer, buffer size and descriptor sizes (R259, R112). -/
def State.programRings (s : State) : State :=
  let s1 := s.regWrite .nptxrBadr (s.cfg.toDma s.cfg.txBase)
  let s2 := s1.regWrite .rxrBadr (s.cfg.toDma s.cfg.rxBase)
  let s3 := s2.regWrite .aptc aptcStart
  let s4 := s3.regWrite .rbsr s.cfg.rbsrStart
  s4.regWrite .dblac (s.cfg.dblacStart (s4.regRead .dblac))

/-- S10: the enables and START_EXTRA, by a read-modify-write of MACCR (R259). -/
def State.enableMac (s : State) : State :=
  s.regWrite .maccr (s.regRead .maccr ||| Maccr.enableM ||| s.cfg.startExtra)

/-- A DEV_START that fails after S1 leaves life = Error (R257). -/
def failStart (st : Status) (s : State) : Answer := raise st { s with life := .error }

/-- DEV_START (R257, R259), phases S1 to S13. -/
def execDevStart (s : State) : Answer :=
  match s.phase with
  | .devS2 =>
    if s.cfg.wellFormed then proceed .devStart .devS3 { s with life := .starting } else failStart .config s
  | .devS3 => proceed .devStart .devS4 s.startReset
  | .devS4 =>
    if (s.regRead .maccr).getLsbD 31 then
      (if s.cfg.resetBounded && s.expired then failStart .resetTimeout s else proceed .devStart .devS4 s)
    else proceed .devStart .devS5 s
  | .devS5 => proceed .devStart (.devS6 .i2) s.programMac
  | .devS6 p =>
    match ringInitStep .tx p s with
    | (s', some q) => proceed .devStart (.devS6 q) s'
    | (s', none) => proceed .devStart (.devS7 .i2) s'
  | .devS7 p =>
    match ringInitStep .rx p s with
    | (s', some q) => proceed .devStart (.devS7 q) s'
    | (s', none) => proceed .devStart .devS8 s'
  | .devS8 => proceed .devStart .devS9 (s.regWrite .ier 0#32)
  | .devS9 => proceed .devStart .devS10 s.programRings
  | .devS10 => proceed .devStart .devS11 s.enableMac
  | .devS11 =>
    match s.draw.phy with
    | .transport => failStart .transport s
    | .link ls => proceed .devStart (.devS12 ls) s
  | .devS12 ls => if linkRefused s.cfg ls then failStart .noLink s else proceed .devStart .devS13 (s.linkWrite ls)
  | .devS13 => finish 0 0#32 { s with life := .running }
  | _ => if legal .devStart s.life then proceed .devStart .devS2 s else raise .badState s

/-- X2: the enables cleared by a read-modify-write of MACCR, or MACCR := 0 when STOP_CLEARS_ALL (R261). -/
def State.stopMac (s : State) : State :=
  if s.cfg.stopClearsAll then s.regWrite .maccr 0#32
  else s.regWrite .maccr (s.regRead .maccr &&& ~~~Maccr.enableM)

/-- DEV_STOP (R261), phases X1 to X3; PHY_SHUTDOWN changes no state of the block (R276, D69). -/
def execDevStop (s : State) : Answer :=
  match s.phase with
  | .stopX2 => proceed .devStop .stopX3 s.stopMac
  | .stopX3 => finish 0 0#32 { s with life := .stopped }
  | _ => if legal .devStop s.life then proceed .devStop .stopX2 s else raise .badState s

/-- A2 (R263): the station address and its two registers. -/
def State.setMac (s : State) : State :=
  ({ s with macAddr := macOfArgs s.arg0 s.arg1 }.regWrite .macMadr s.arg0).regWrite .macLadr s.arg1

/-- DEV_SET_MAC with mac0, mac1 in ARG0 and mac2 to mac5 in ARG1 (R263), phases A1 and A2. -/
def execDevSetMac (s : State) : Answer :=
  match s.phase with
  | .setMacA2 => finish 0 0#32 s.setMac
  | _ =>
    if legal .devSetMac s.life then
      (if s.arg0.extractLsb' 16 16 = 0#16 then proceed .devSetMac .setMacA2 s else raise .badArg s)
    else raise .badState s

end Sys2Proof.Machine
end

