-- ==== Sys2Proof/Machine/Rx.lean ====
section
/-! DEFINITION. RX_POLL and RX_RELEASE (43_rx.md R210 to R216). -/

namespace Sys2Proof.Machine

/-- The end of P1, after the Invalidate (R211): ownership first, then the error flags (R295). -/
def rxCheckSlot (s : State) : Answer :=
  if s.cfg.own (s.memRead s.rxSlot) then
    if s.cfg.rxBad (s.memRead s.rxSlot) then raise .noPacket (s.memReadState s.rxSlot)
    else proceed .rxPoll (.rxP2 (s.memRead s.rxSlot)) (s.memReadState s.rxSlot)
  else raise .noPacket (s.memReadState s.rxSlot)

/-- P1's Invalidate of the slot and what follows it (R211). -/
def rxP1 (todo : List Nat) (s : State) : Answer :=
  syncLine .rxPoll State.invalidateLine .rxP1 rxCheckSlot todo s

/-- P2's Invalidate of the buffer range (R211). -/
def rxP2Lines (n : Nat) (b : Word) (todo : List Nat) (s : State) : Answer :=
  syncLine .rxPoll State.invalidateLine (.rxP2Lines n b) (proceed .rxPoll (.rxP3 n b)) todo s

/-- The CPU address of the buffer view (R210): from_dma of word BUF_WORD. -/
def State.viewAddr (s : State) : Word := s.cfg.fromDma (s.memRead (bufWordOf s.cfg s.rxSlot))

/-- RX_POLL (R211), phases P1 to P3. -/
def execRxPoll (s : State) : Answer :=
  match s.phase with
  | .rxP1 todo => rxP1 todo s
  | .rxP2 w =>
    rxP2Lines (s.cfg.len w) s.viewAddr (s.cfg.syncLines s.viewAddr (s.cfg.len w))
      (s.memReadState (bufWordOf s.cfg s.rxSlot))
  | .rxP2Lines n b todo => rxP2Lines n b todo s
  | .rxP3 n b => finish n b { s with rxOut := true, rxOutSlot := s.rxCur }
  | _ =>
    if legal .rxPoll s.life then
      (if s.rxOut then raise .badState s else rxP1 (s.cfg.syncLines s.rxSlot s.cfg.descSize) s)
    else raise .badState s

/-- L2's read-modify-write of word 0 (R212): OWN := 0. -/
def State.releaseWrite (s : State) : State :=
  (s.memReadState s.releaseSlot).memWrite s.releaseSlot (s.cfg.releaseWord (s.memRead s.releaseSlot))

/-- L2's Flush of the slot (R212). -/
def rxL2Lines (todo : List Nat) (s : State) : Answer :=
  syncLine .rxRelease State.flushLine .rxL2Lines (proceed .rxRelease .rxL3) todo s

/-- RX_RELEASE (R212), phases L1 to L3. -/
def execRxRelease (s : State) : Answer :=
  match s.phase with
  | .rxL2 => rxL2Lines (s.cfg.syncLines s.releaseSlot s.cfg.descSize) s.releaseWrite
  | .rxL2Lines todo => rxL2Lines todo s
  | .rxL3 => finish 0 0#32 { s with rxCur := s.cfg.advance .rx s.rxCur, rxOut := false }
  | _ =>
    if legal .rxRelease s.life then
      (if s.rxOut then proceed .rxRelease .rxL2 s else raise .badState s)
    else raise .badState s

end Sys2Proof.Machine
end

