-- ==== Sys2Proof/Machine/Tx.lean ====
section
/-! DEFINITION. TX_SUBMIT (42_tx.md R180 to R187). -/

namespace Sys2Proof.Machine

/-- The end of T1, after the Invalidate (R182): the ownership bit decides. -/
def txCheckSlot (s : State) : Answer :=
  if s.cfg.own (s.memRead s.txSlot) then raise .noDesc (s.memReadState s.txSlot)
  else proceed .txSubmit (.txT2 (s.memRead s.txSlot)) (s.memReadState s.txSlot)

/-- T1's Invalidate of the slot and what follows it (R182). -/
def txT1 (todo : List Nat) (s : State) : Answer :=
  syncLine .txSubmit State.invalidateLine .txT1 txCheckSlot todo s

/-- T1's checks (R182, R295): lifecycle, then length, then wrap. -/
def txStart (s : State) : Answer :=
  if legal .txSubmit s.life then
    if s.cfg.lenMax < s.txLen then raise .badArg s
    else if wraps s.arg0 s.txLen then raise .badArg s
    else txT1 (s.cfg.syncLines s.txSlot s.cfg.descSize) s
  else raise .badState s

/-- The end of T7, after the Invalidate (R182, R300): the condition is checked before the timer. -/
def txCheckDone (s : State) : Answer :=
  if s.cfg.own (s.memRead s.txSlot) then
    if s.expired then raise .txTimeout (s.memReadState s.txSlot)
    else proceed .txSubmit (.txT7 (s.cfg.syncLines s.txSlot s.cfg.descSize)) (s.memReadState s.txSlot)
  else proceed .txSubmit .txT8 (s.memReadState s.txSlot)

/-- TX_SUBMIT buf, L with buf in ARG0 and L in ARG1 (R182), phases T1 to T8. -/
def execTxSubmit (s : State) : Answer :=
  match s.phase with
  | .txT1 todo => txT1 todo s
  | .txT2 w =>
    proceed .txSubmit (.txT3 w (s.cfg.syncLines s.arg0 s.txLen))
      (s.memWrite (bufWordOf s.cfg s.txSlot) (s.cfg.toDma s.arg0))
  | .txT3 w todo => syncLine .txSubmit State.flushLine (.txT3 w) (proceed .txSubmit (.txT4 w)) todo s
  | .txT4 w =>
    proceed .txSubmit (.txT5 (s.cfg.syncLines s.txSlot s.cfg.descSize))
      (s.memWrite s.txSlot (s.cfg.txWord0 w s.txLen))
  | .txT5 todo => syncLine .txSubmit State.flushLine .txT5 (proceed .txSubmit .txT6) todo s
  | .txT6 =>
    proceed .txSubmit (.txT7 (s.cfg.syncLines s.txSlot s.cfg.descSize))
      { s.regWrite .nptxpd 1#32 with expired := false }
  | .txT7 todo => syncLine .txSubmit State.invalidateLine .txT7 txCheckDone todo s
  | .txT8 => finish 0 0#32 { s with txCur := s.cfg.advance .tx s.txCur }
  | _ => txStart s

end Sys2Proof.Machine
end

