-- ==== Sys2Proof/Machine/Dispatch.lean ====
section
/-! DEFINITION. The next atomic phase of a command, one arm per command (R12, R23, R122). -/

namespace Sys2Proof.Machine

def exec (i : Instr) (s : State) : Host.Outcome State Fault Refusal :=
  match i with
  | .ringInit r => Sys2Proof.Machine.execRingInit r s
  | .ringAdvance r index => Sys2Proof.Machine.execRingAdvance r index s
  | .ringSlot r index => Sys2Proof.Machine.execRingSlot r index s
  | .ringMarkEnd r index => Sys2Proof.Machine.execRingMarkEnd r index s
  | .syncFlush => Sys2Proof.Machine.execSyncFlush s
  | .syncInvalidate => Sys2Proof.Machine.execSyncInvalidate s
  | .txSubmit => Sys2Proof.Machine.execTxSubmit s
  | .rxPoll => Sys2Proof.Machine.execRxPoll s
  | .rxRelease => Sys2Proof.Machine.execRxRelease s
  | .linkAdjust => Sys2Proof.Machine.execLinkAdjust s
  | .devStart => Sys2Proof.Machine.execDevStart s
  | .devStop => Sys2Proof.Machine.execDevStop s
  | .devSetMac => Sys2Proof.Machine.execDevSetMac s

end Sys2Proof.Machine
end

