-- ==== Sys2Proof/Machine/Software.lean ====
section
/-! DEFINITION. The software agent: a write of CMD starts the command its word decodes to (R22, R23, R125, R132), and
while the command runs the agent takes its phases one at a time (R12). -/

namespace Sys2Proof.Machine

/-- A command word ends with ILLEGAL: only RES0, RES1 and BUSY are written besides CMD (R125, R292). -/
def illegalCommand (s : State) : State := s.endCommand .illegal 0 0#32

/-- CMD is written while BUSY = 0: CMD holds the word (R22) and the command takes its first phase in the same step, or
ends at once with ILLEGAL (R23, R125). -/
def startCommand (w : Word) (s : State) : Answer :=
  match decode w with
  | .ok i => exec i { s with cmd := w, phase := .first }
  | .error _ => .next (illegalCommand { s with cmd := w })

/-- The CPU address of a 30-bit word index. -/
def wordIndexAddr (index : BitVec 30) : Word := index ++ 0#2

/-- One access of the software agent (R22, R70, R132). A write of ARG0, ARG1 or CMD while BUSY = 1 is refused (R22). -/
def softwareAccess (q : Request) (s : State) : Answer :=
  match q with
  | .pause => .next s
  | .writeArg0 v => if s.busy then .refused .writeWhileBusy else .next { s with arg0 := v }
  | .writeArg1 v => if s.busy then .refused .writeWhileBusy else .next { s with arg1 := v }
  | .writeCmd w => if s.busy then .refused .writeWhileBusy else startCommand w s
  | .load index => .next (s.memReadState (wordIndexAddr index))
  | .store index v => .next (s.memWrite (wordIndexAddr index) v)

/-- What the software agent does next when no command runs: the oldest entry of `requests`, else a free value (log
entry 4). -/
def State.nextRequest (s : State) : Request :=
  match s.requests with
  | q :: _ => q
  | [] => Config.freeRequest s.ticks

/-- One step of the software agent: the running command's next phase, or else its next access. -/
def softwareTurn (s : State) : Answer :=
  match s.op with
  | some i => exec i s
  | none => softwareAccess s.nextRequest { s with requests := s.requests.tail }

/-- Which agent steps next: the oldest entry of `agenda`, else a free value (log entry 3). -/
def State.nextTurn (s : State) : Turn :=
  match s.agenda with
  | t :: _ => t
  | [] => Config.freeTurn s.ticks

/-- The state that the chosen turn acts on: its entry is taken and the step counter advances. -/
def State.takeTurn (s : State) : State := { s with agenda := s.agenda.tail, ticks := s.ticks + 1 }

/-- One turn of one agent (R7, R12): the software agent's draws stand in `draw` while it runs. -/
def runTurn (t : Turn) (s : State) : Answer :=
  match t with
  | .software pick phy => softwareTurn { s with draw := ⟨pick, phy⟩ }
  | .txDma pick x reserved => .next (txDmaTurn pick x reserved s)
  | .wire f => .next (wireTurn f s)
  | .rxDma pick => .next (rxDmaTurn pick s)
  | .cacheWriteBack a keep => .next (cacheWriteBackTurn a keep s)
  | .cacheFill a => .next (cacheFillTurn a s)
  | .cacheDrop a => .next (cacheDropTurn a s)
  | .mac regs txPtr rxPtr => .next (macTurn regs txPtr rxPtr s)
  | .timer => .next (timerTurn s)

/-- The state in which the next step is the write of `w` to CMD by an idle software agent: a software turn comes first
in `agenda`, the write first in `requests`, and no command runs (log entry 4). -/
def State.withCommand (s : State) (w : Word) : State :=
  { s with
    agenda := .software 0 .transport :: s.agenda
    requests := .writeCmd w :: s.requests
    busy := false
    op := none
    phase := .first }

end Sys2Proof.Machine
end

