-- ==== Sys2Proof/Machine/Step.lean ====
section
/-! DEFINITION. One step of the machine: one atomic step of one agent (R7, R12, R83). -/

namespace Sys2Proof.Machine

/-- One atomic step of the agent whose turn it is. -/
def step (s : State) : Host.Outcome State Fault Refusal := runTurn s.nextTurn s.takeTurn

/-- `s` with the command word made of the low `nbits` bits of `w` as the software agent's next write of CMD, so that the
very next step starts it (log entry 4). -/
def State.withFetchWord (s : State) (nbits w : Nat) : State := s.withCommand (tableWord nbits w)

end Sys2Proof.Machine
end

