-- ==== Sys2Proof/Machine/Slots.lean ====
section
/-! DEFINITION. The slot-state machines (10_state.md R32, R34): each slot's state, read from memory's word 0 and the
engine state. Nothing is stored for them. -/

namespace Sys2Proof.Machine

/-- TX slot states (R32). -/
inductive TxSlot where
  | free | filling | hw | done | stuck
  deriving DecidableEq, Repr

/-- RX slot states (R34). -/
inductive RxSlot where
  | armed | ready | bad | held
  deriving DecidableEq, Repr

/-- Word 0 of a slot in memory. -/
def State.slotWord0 (s : State) (r : Ring) (i : Nat) : Word := s.ramWord (s.cfg.wordAddr r i 0)

/-- What the CPU side sees in word 0 of a slot: the cached copy, or memory's word where the line is Invalid. -/
def State.slotView0 (s : State) (r : Ring) (i : Nat) : Word := s.memRead (s.cfg.wordAddr r i 0)

/-- The line is Valid and dirty. -/
def State.lineDirty (s : State) (l : Nat) : Bool :=
  match s.cache.get l with
  | some line => line.dirty
  | none => false

/-- The line that holds word 0 of a slot is dirty. -/
def State.slotDirty (s : State) (r : Ring) (i : Nat) : Bool := s.lineDirty (s.cfg.lineOf (s.cfg.wordAddr r i 0).toNat)

/-- TX_SUBMIT is past T1 on its slot: it fills it (T2 to T4), has written word 0 and flushes it (T5), or polls it
(T6 to T8). -/
inductive TxStage where
  | none | filling | publishing | polling
  deriving DecidableEq, Repr

/-- How far the running TX_SUBMIT is (R32). -/
def txStage : Phase → TxStage
  | .txT2 _ => .filling
  | .txT3 _ _ => .filling
  | .txT4 _ => .filling
  | .txT5 _ => .publishing
  | .txT6 => .polling
  | .txT7 _ => .polling
  | .txT8 => .polling
  | _ => .none

/-- The stage of the running TX_SUBMIT on slot `i`: none when no TX_SUBMIT runs on it (R26, R32). -/
def State.stageOf (s : State) (i : Nat) : TxStage :=
  if s.op = some .txSubmit ∧ i = s.txCur then txStage s.phase else .none

/-- The state of TX slot `i` (R32). In T5, memory's OWN = 0 means that word 0 is not flushed yet while its line is dirty,
and after that, or after an earlier eviction, that the TX DMA agent has completed the slot (log entry 25). -/
def State.txSlotState (s : State) (i : Nat) : TxSlot :=
  if s.cfg.own (s.slotWord0 .tx i) then
    match s.stageOf i with
    | .none => .stuck
    | .filling => .hw
    | .publishing => .hw
    | .polling => .hw
  else
    match s.stageOf i with
    | .none => .free
    | .filling => .filling
    | .publishing => if s.slotDirty .tx i then .filling else .done
    | .polling => .done

/-- The state of RX slot `i` (R34). -/
def State.rxSlotState (s : State) (i : Nat) : RxSlot :=
  if s.rxOut = true ∧ s.rxOutSlot = i then .held
  else if s.cfg.own (s.slotWord0 .rx i) then (if s.cfg.rxBad (s.slotWord0 .rx i) then .bad else .ready)
  else .armed

end Sys2Proof.Machine
end

