-- ==== Sys2Proof/Machine/Rings.lean ====
section
/-! DEFINITION. The ring invariants (10_state.md R33 (b) to (e); (a) is `State.cursorsOk` with `Config.wellFormed`), as
predicates on a state, with what R145 and R202 say beside them. Nothing is stored for them. -/

namespace Sys2Proof

/-- The DMA address of slot `i` (R27, R202). -/
def Config.ringPtr (c : Config) (r : Ring) (i : Nat) : Word := c.toDma (c.base r) + BitVec.ofNat 32 (i * c.descSize)

/-- The lines of both rings. -/
def Config.bothRings (c : Config) : List Nat :=
  c.lines c.txBase.toNat (c.txCap * c.descSize) ++ c.lines c.rxBase.toNat (c.rxCap * c.descSize)

/-- The lines of every RX buffer. -/
def Config.rxBufLines (c : Config) : List Nat := c.rxBuf.flatMap fun b => c.lines b.toNat c.rxBufSize

/-- The lines that R326 (c) keeps from every write but the block's own: those of both rings and of every RX buffer. -/
def Config.protectedLines (c : Config) : List Nat := c.bothRings ++ c.rxBufLines

/-- No two RX descriptors share a cache line, or there is no cache: R336's hazard cannot arise. -/
def Config.rxSlotsApart (c : Config) : Bool :=
  c.coherent || (decide (c.descSize % c.line = 0) && decide (c.rxBase.toNat % c.line = 0))

namespace Machine

/-- Every slot of a ring passes. -/
def State.everySlot (s : State) (r : Ring) (p : Nat → Bool) : Bool := (List.range (s.cfg.cap r)).all p

/-! ## When the invariants are claimed -/

/-- The rings are initialised and DEV_START is past S9: the phases in which R33's ring is started (R259). -/
def pastRings : Phase → Bool
  | .devS10 => true
  | .devS11 => true
  | .devS12 _ => true
  | .devS13 => true
  | _ => false

/-- No RING_INIT runs, and no DEV_START before S10: the span of R145. -/
def State.ringsStand (s : State) : Bool :=
  match s.op with
  | some (.ringInit _) => false
  | some .devStart => pastRings s.phase
  | _ => true

/-- The rings are started: the device is Running, or DEV_START is past S9. -/
def State.started (s : State) : Bool := s.life == .running || (s.op == some .devStart && pastRings s.phase)

/-! ## R33 (b): the end-of-ring flag -/

/-- R33 (b) in memory: exactly slot cap - 1 has EOR. -/
def State.endMarked (s : State) (r : Ring) : Bool :=
  s.everySlot r fun i => s.cfg.eor (s.slotWord0 r i) == (i + 1 == s.cfg.cap r)

/-- R33 (b) on the CPU side: exactly slot cap - 1 has EOR, in a cached copy or, where there is none, in memory. -/
def State.endMarkedCpu (s : State) (r : Ring) : Bool :=
  s.everySlot r fun i => s.cfg.eor (s.slotView0 r i) == (i + 1 == s.cfg.cap r)

/-! ## R33 (c): a buffer belongs to one party -/

/-- The word 0 that a running TX_SUBMIT carries from T1 on, until it publishes another (R182). -/
def Phase.txWord : Phase → Option Word
  | .txT2 w => some w
  | .txT3 w _ => some w
  | .txT4 w => some w
  | _ => none

/-- The word 0 that the TX DMA agent holds (R200). -/
def TxProgress.word : TxProgress → Option Word
  | .idle => none
  | .fetched w => some w
  | .addressed w _ _ _ => some w
  | .sent w => some w

/-- The word 0 that the RX DMA agent holds (R230). -/
def RxProgress.word : RxProgress → Option Word
  | .idle => none
  | .fetched w _ => some w
  | .addressed w _ _ _ => some w
  | .written w _ => some w

/-- R33 (c) for the TX ring: the TX DMA agent is part-way through a slot only while memory gives the slot to hardware, and
TX_SUBMIT fills a slot (T2 to T4) only while memory gives it to software. -/
def State.txOwned (s : State) : Bool :=
  (s.txd == .idle || s.cfg.own (s.dmaRead s.txHwptr)) &&
  (s.phase.txWord.isNone || !s.cfg.own (s.slotWord0 .tx s.txCur))

/-- The packet that RX_POLL is about to return has been found (R211). -/
def rxFound : Phase → Bool
  | .rxP2 _ => true
  | .rxP2Lines _ _ _ => true
  | .rxP3 _ _ => true
  | _ => false

/-- RX_RELEASE has written OWN := 0 (R212). -/
def rxReleased : Phase → Bool
  | .rxL2Lines _ => true
  | .rxL3 => true
  | _ => false

/-- R33 (c) for the RX ring: the RX DMA agent is part-way through a slot only while memory gives the slot to hardware, and
software holds a packet, from the test in P1 to the release in L2, only while memory gives the slot to software. -/
def State.rxOwned (s : State) : Bool :=
  (s.rxd == .idle || !s.cfg.own (s.dmaRead s.rxHwptr)) &&
  (!s.rxOut || rxReleased s.phase || s.cfg.own (s.slotWord0 .rx s.rxOutSlot)) &&
  (!rxFound s.phase || (s.cfg.own (s.slotWord0 .rx s.rxCur) && !s.cfg.rxBad (s.slotWord0 .rx s.rxCur)))

/-! ## R33 (d): what software reads is invalidated before, what hardware reads is flushed after -/

/-- The lines of a ring that the running command has written and not flushed yet (R182 T2 to T5, R212 L2). -/
def State.unflushed (s : State) : List Nat :=
  match s.phase with
  | .txT3 _ _ => s.cfg.syncLines s.txSlot s.cfg.descSize
  | .txT4 _ => s.cfg.syncLines s.txSlot s.cfg.descSize
  | .txT5 todo => (s.cfg.syncLines s.txSlot s.cfg.descSize).filter todo.contains
  | .rxL2Lines todo => (s.cfg.syncLines s.releaseSlot s.cfg.descSize).filter todo.contains
  | _ => []

/-- R33 (d), the writes: no line of a ring is dirty but those whose Flush is still to come in the running command. -/
def State.ringsFlushed (s : State) : Bool :=
  s.cache.all fun e => !e.2.dirty || !s.cfg.bothRings.contains e.1 || s.unflushed.contains e.1

/-- No line over an RX buffer is dirty, so that no write-back reaches a delivered frame (R213, R327 (3), R338, R339). -/
def State.rxBuffersClean (s : State) : Bool := s.cache.all fun e => !e.2.dirty || !s.cfg.rxBufLines.contains e.1

/-- R33 (d), the reads of the TX ring: a copy that is not dirty shows a slot to be software's only if memory does, so that
T1 and T7 trust no stale completion. -/
def State.txFresh (s : State) : Bool :=
  s.everySlot .tx fun i => s.slotDirty .tx i || s.cfg.own (s.slotView0 .tx i) || !s.cfg.own (s.slotWord0 .tx i)

/-- R33 (d), the reads of the RX ring: a copy that is not dirty and shows a delivered packet is memory's word, so that P1
trusts no stale delivery (R213, R216 (a)). -/
def State.rxFresh (s : State) : Bool :=
  s.everySlot .rx fun i => s.slotDirty .rx i || !s.cfg.own (s.slotView0 .rx i) || s.slotWord0 .rx i == s.slotView0 .rx i

/-! ## R33 (e): DMA pointers and cursors -/

/-- R33 (e) for the TX ring: when no TX_SUBMIT runs and no slot is stuck, the TX DMA pointer is at the cursor's slot. -/
def State.txAgree (s : State) : Bool :=
  s.op == some .txSubmit || (List.range s.cfg.txCap).any (fun i => s.txSlotState i == .stuck) ||
  s.txHwptr == s.cfg.ringPtr .tx s.txCur

/-- R33 (e) for the RX ring: the RX DMA pointer is at or ahead of rx_cur in ring order by fewer than RX_CAP slots. -/
def State.rxAgree (s : State) : Bool :=
  (List.range s.cfg.rxCap).any fun k => s.rxHwptr == s.cfg.ringPtr .rx ((s.rxCur + k) % s.cfg.rxCap)

/-- The agreement of R202 at every step: the TX DMA pointer is at the cursor's slot until the agent completes it, then at
the next slot until T8 moves the cursor, and the agent is part-way only through a slot that hardware has. -/
def State.txInStep (s : State) : Bool :=
  match s.txSlotState s.txCur with
  | .free => s.txHwptr == s.cfg.ringPtr .tx s.txCur && s.txd == .idle
  | .filling => s.txHwptr == s.cfg.ringPtr .tx s.txCur && s.txd == .idle
  | .hw => s.txHwptr == s.cfg.ringPtr .tx s.txCur
  | .done => s.txHwptr == s.cfg.ringPtr .tx (s.cfg.advance .tx s.txCur) && s.txd == .idle
  | .stuck => false

/-! ## The invariants together -/

/-- Both DMA pointers are at slots of their rings and no reset is in progress; the ring base registers are what S9 wrote
(R27, R202, R259). -/
def State.pointersOk (s : State) : Bool :=
  !s.macRst && s.mac.nptxrBadr == s.cfg.ringPtr .tx 0 && s.mac.rxrBadr == s.cfg.ringPtr .rx 0 &&
  (List.range s.cfg.txCap).any (fun i => s.txHwptr == s.cfg.ringPtr .tx i) && s.rxAgree

/-- Word BUF_WORD of every RX slot is the address of the slot's buffer, in memory and on the CPU side (R141 I3). -/
def State.rxArmed (s : State) : Bool :=
  s.everySlot .rx fun i =>
    s.ramWord (s.cfg.wordAddr .rx i s.cfg.bufWord) == s.cfg.toDma (s.cfg.rxBufAt i) &&
    s.memRead (s.cfg.wordAddr .rx i s.cfg.bufWord) == s.cfg.toDma (s.cfg.rxBufAt i)

/-- The buffer address that the RX DMA agent holds is the one in its slot (R230 E2). -/
def State.rxAddressOk (s : State) : Bool :=
  match s.rxd with
  | .addressed _ _ d _ => d == s.dmaRead (bufWordOf s.cfg s.rxHwptr)
  | _ => true

/-- What is carried over has the end-of-ring flag of its slot: TX_SUBMIT's word 0 from T1, the DMA agents' from D1 and
E1. -/
def State.carriedOk (s : State) : Bool :=
  s.phase.txWord.all (fun w => s.cfg.eor w == (s.txCur + 1 == s.cfg.txCap)) &&
  s.txd.word.all (fun w => s.cfg.eor w == s.cfg.eor (s.dmaRead s.txHwptr)) &&
  s.rxd.word.all (fun w => s.cfg.eor w == s.cfg.eor (s.dmaRead s.rxHwptr)) && s.rxAddressOk

/-- R33 (b) and R145, with what they need of the pointers and of the values carried over. -/
def State.ringsMarked (s : State) : Bool :=
  s.pointersOk && s.endMarked .tx && s.endMarked .rx && s.endMarkedCpu .tx && s.endMarkedCpu .rx && s.rxArmed &&
  s.carriedOk

/-- At most one TX slot is away from software, the one at the cursor (R26, R186 (d)): every other slot is software's in
memory and in every copy, and so is the cursor's slot while it is filled and after its completion was seen. A dirty word
0 in T5 is the published one, which memory does not have yet. -/
def State.txOneInFlight (s : State) : Bool :=
  s.everySlot .tx (fun i => i == s.txCur || (!s.cfg.own (s.slotWord0 .tx i) && !s.cfg.own (s.slotView0 .tx i))) &&
  (match s.phase with
    | .txT5 _ =>
      !s.slotDirty .tx s.txCur || (!s.cfg.own (s.slotWord0 .tx s.txCur) && s.cfg.own (s.slotView0 .tx s.txCur))
    | .txT8 => !s.cfg.own (s.slotWord0 .tx s.txCur) && !s.cfg.own (s.slotView0 .tx s.txCur)
    | _ => s.phase.txWord.isNone || !s.cfg.own (s.slotView0 .tx s.txCur))

/-- R33 (c) and (d) for the TX ring. -/
def State.txSlotsOk (s : State) : Bool := s.txFresh && s.txOwned && s.txOneInFlight

/-- What RX_RELEASE has written and not flushed yet gives the slot to hardware (R212 L2). -/
def State.rxReleaseOk (s : State) : Bool :=
  match s.phase with
  | .rxL2Lines _ => !s.slotDirty .rx s.rxOutSlot || !s.cfg.own (s.slotView0 .rx s.rxOutSlot)
  | _ => true

/-- R33 (c) and (d) for the RX ring. -/
def State.rxSlotsOk (s : State) : Bool := s.rxFresh && s.rxOwned && s.rxReleaseOk

end Machine

end Sys2Proof
end

