-- ==== Sys2Proof/Safety.lean ====
section
/-! DEFINITION. What counts as a well-formed run: the launch premises (R326), the shape every state of a run has
(`State.sound`), when the ring invariants of Machine/Rings.lean are claimed, and the fairness of the agents (R203, R233,
R301, R325). -/

namespace Sys2Proof

/-! ## Launch premises (R326) -/

/-- A byte range of the CPU side: start and size. -/
structure Extent where
  start : Nat
  size : Nat
  deriving DecidableEq, Repr

/-- The range rounded out to whole lines (R326 (c)). -/
def Extent.rounded (c : Config) (e : Extent) : Extent :=
  ⟨c.lineOf e.start, c.lineOf (e.start + e.size + c.line - 1) - c.lineOf e.start⟩

/-- The two ranges share no byte. -/
def Extent.apart (d e : Extent) : Bool := decide (d.start + d.size ≤ e.start) || decide (e.start + e.size ≤ d.start)

/-- No two ranges of the list share a byte. -/
def allApart : List Extent → Bool
  | [] => true
  | e :: rest => (rest.all fun d => Extent.apart e d) && allApart rest

/-- The TX ring, the RX ring and every RX buffer, rounded out to lines (R326 (c)). -/
def Config.extents (c : Config) : List Extent :=
  (⟨c.txBase.toNat, c.txCap * c.descSize⟩ :: ⟨c.rxBase.toNat, c.rxCap * c.descSize⟩ ::
    (c.rxBuf.map fun b => ⟨b.toNat, c.rxBufSize⟩)).map (Extent.rounded c)

/-- The launch premises of R326, with DESC_ALIGN at its normative value (R8, D47). LINE is a power of two ≥ 16 by
construction, and every address is memory. -/
def Config.launchOk (c : Config) : Bool :=
  c.wellFormed && decide (c.descAlign = 16) && c.layoutFits && decide (c.rxBuf.length = c.rxCap) &&
  allApart c.extents && (c.extents.all fun e => decide (e.start + e.size ≤ 2 ^ 32)) &&
  (c.rxBuf.all fun b => decide (b.toNat % c.line = 0)) && decide (c.rxBufSize % c.line = 0) &&
  decide (1 ≤ c.rxBufSize) && decide (c.rxBufSize ≤ c.lenMax) &&
  (c.rxBuf.all fun b => c.fromDma (c.toDma b) == b) &&
  decide ((c.toDma c.txBase).toNat % 16 = 0) && decide ((c.toDma c.rxBase).toNat % 16 = 0)

/-- The launch premises with the identity translation, as R202 takes it, and a START_EXTRA that starts no MAC reset. -/
def Config.plainLaunch (c : Config) : Bool := c.launchOk && c.toDmaMap.isEmpty && !c.startExtra.getLsbD 31

/-- A turn of the software agent. -/
def Turn.isSoftware : Turn → Bool
  | .software _ _ => true
  | _ => false

/-- A turn of the TX DMA agent. -/
def Turn.isTxDma : Turn → Bool
  | .txDma _ _ _ => true
  | _ => false

/-- A turn of the RX DMA agent. -/
def Turn.isRxDma : Turn → Bool
  | .rxDma _ => true
  | _ => false

/-- A turn of the MAC agent. -/
def Turn.isMac : Turn → Bool
  | .mac _ _ _ => true
  | _ => false

/-- A turn of the timer. -/
def Turn.isTimer : Turn → Bool
  | .timer => true
  | _ => false

namespace Machine

/-! ## The shape of every state of a run -/

/-- The phases a running command can be at between two steps (R23): its phases after the first. -/
def later : Instr → Phase → Bool
  | .ringInit _, .ringInit _ => true
  | .ringMarkEnd _ _, .markM2 => true
  | .syncFlush, .flushF2 _ => true
  | .syncInvalidate, .invalidateV2 _ => true
  | .txSubmit, .txT1 _ => true
  | .txSubmit, .txT2 _ => true
  | .txSubmit, .txT3 _ _ => true
  | .txSubmit, .txT4 _ => true
  | .txSubmit, .txT5 _ => true
  | .txSubmit, .txT6 => true
  | .txSubmit, .txT7 _ => true
  | .txSubmit, .txT8 => true
  | .rxPoll, .rxP1 _ => true
  | .rxPoll, .rxP2 _ => true
  | .rxPoll, .rxP2Lines _ _ _ => true
  | .rxPoll, .rxP3 _ _ => true
  | .rxRelease, .rxL2 => true
  | .rxRelease, .rxL2Lines _ => true
  | .rxRelease, .rxL3 => true
  | .linkAdjust, .linkK2 _ => true
  | .devStart, .devS2 => true
  | .devStart, .devS3 => true
  | .devStart, .devS4 => true
  | .devStart, .devS5 => true
  | .devStart, .devS6 _ => true
  | .devStart, .devS7 _ => true
  | .devStart, .devS8 => true
  | .devStart, .devS9 => true
  | .devStart, .devS10 => true
  | .devStart, .devS11 => true
  | .devStart, .devS12 _ => true
  | .devStart, .devS13 => true
  | .devStop, .stopX2 => true
  | .devStop, .stopX3 => true
  | .devSetMac, .setMacA2 => true
  | _, _ => false

/-- The lifecycle state a running command goes with (R255, R256): Starting is DEV_START past S2 and nothing else. -/
def lifeFits (i : Instr) (p : Phase) (l : Life) : Bool :=
  match i with
  | .devStart => if p = .devS2 then legal .devStart l else l == .starting
  | _ => legal i l && l != .starting

/-- BUSY, st.op, st.phase and st.life agree (R22, R23, R255). -/
def State.seqOk (s : State) : Bool :=
  s.busy == s.op.isSome &&
    match s.op with
    | none => s.phase == .first && s.life != .starting
    | some i => later i s.phase && lifeFits i s.phase s.life

/-- The operands of a TX_SUBMIT that has passed T1's checks: a length that fits and a range that does not wrap (R182). -/
def State.submitOk (s : State) : Bool := decide (s.txLen ≤ s.cfg.lenMax) && !wraps s.arg0 s.txLen

/-- What a phase carries over is what its rule put there: TX_SUBMIT goes past T1's checks only with operands that pass
them, and past T1 only with a word 0 it read as software-owned (R182, R186 (a)), RX_POLL past P1 only with a good packet
and none outstanding, RX_RELEASE past L1 only with one outstanding (R211, R212), and RING_MARK_END, the SYNC commands,
LINK_ADJUST and DEV_SET_MAC past their argument checks only with arguments that pass (R144, R163, R164, R243, R263). -/
def State.phaseOk (s : State) : Bool :=
  match s.phase with
  | .markM2 =>
    match s.op with
    | some (.ringMarkEnd r index) => index + 1 == s.cfg.cap r
    | _ => true
  | .flushF2 _ => !wraps s.arg0 s.arg1.toNat
  | .invalidateV2 _ => !wraps s.arg0 s.arg1.toNat
  | .linkK2 ls => linkOfArg s.arg0 == some ls
  | .setMacA2 => s.arg0.extractLsb' 16 16 == 0#16
  | .txT1 _ => s.submitOk
  | .txT2 w => s.submitOk && !s.cfg.own w
  | .txT3 w _ => s.submitOk && !s.cfg.own w
  | .txT4 w => s.submitOk && !s.cfg.own w
  | .txT5 _ => s.submitOk
  | .txT6 => s.submitOk
  | .txT7 _ => s.submitOk
  | .txT8 => s.submitOk
  | .rxP1 _ => !s.rxOut
  | .rxP2 w => !s.rxOut && s.cfg.own w && !s.cfg.rxBad w
  | .rxP2Lines _ _ _ => !s.rxOut
  | .rxP3 _ _ => !s.rxOut
  | .rxL2 => s.rxOut
  | .rxL2Lines _ => s.rxOut
  | .rxL3 => s.rxOut
  | _ => true

/-- The slot of the outstanding packet is the one at the cursor (R25, R214), and cursors are in range (R33 (a), R146). -/
def State.cursorsOk (s : State) : Bool :=
  decide (s.txCur < s.cfg.txCap) && decide (s.rxCur < s.cfg.rxCap) && (!s.rxOut || s.rxOutSlot == s.rxCur)

/-- The four MACCR enable bits are 0. -/
def State.enablesOff (s : State) : Bool := s.mac.maccr &&& Maccr.enableM == 0#32

/-- From the end of the reset wait to S10 no DMA agent is enabled (R259), and the stored MACCR has bit 31 = 0 (R54). -/
def State.maccrOk (s : State) : Bool :=
  !s.mac.maccr.getLsbD 31 &&
    match s.phase with
    | .devS4 => s.macRst || s.enablesOff
    | .devS5 => !s.macRst && s.enablesOff
    | .devS6 _ => !s.macRst && s.enablesOff
    | .devS7 _ => !s.macRst && s.enablesOff
    | .devS8 => !s.macRst && s.enablesOff
    | .devS9 => !s.macRst && s.enablesOff
    | .devS10 => !s.macRst && s.enablesOff
    | _ => true

/-- The DMA agents hold what their rules let them hold: a hardware-owned word 0 (R200 D1, R230 E1), a frame buffer of
the descriptor's length, a frame no longer than RX_BUF_SIZE (R230), and byte offsets inside the frame. -/
def State.dmaOk (s : State) : Bool :=
  (match s.txd with
    | .idle => true
    | .fetched w => s.cfg.own w
    | .addressed w _ todo buf =>
      s.cfg.own w && decide (buf.length = s.cfg.len w) && todo.all fun k => decide (k < s.cfg.len w)
    | .sent w => s.cfg.own w) &&
  (match s.rxd with
    | .idle => true
    | .fetched w f => !s.cfg.own w && decide (f.bytes.length ≤ s.cfg.rxBufSize)
    | .addressed w f _ todo =>
      !s.cfg.own w && decide (f.bytes.length ≤ s.cfg.rxBufSize) && todo.all fun k => decide (k < f.bytes.length)
    | .written w f => !s.cfg.own w && decide (f.bytes.length ≤ s.cfg.rxBufSize))

/-- Memory and cache are canonical (R50, R51), and there is no cache when DMA is coherent (R79). -/
def State.storeOk (s : State) : Bool :=
  Memory.wf s.mem && Cache.wf s.cfg s.cache && (!s.cfg.coherent || s.cache.isEmpty)

/-- The shape every state of a run has; every step keeps it. -/
def State.sound (s : State) : Bool :=
  s.seqOk && s.phaseOk && s.cursorsOk && s.maccrOk && s.dmaOk && s.storeOk

/-! ## When the ring invariants (R33) are claimed -/

/-- A state of a well-started ring (R33): the launch premises hold, the state has the shape of a run, and the rings are
started. -/
def State.wellStarted (s : State) : Bool := s.cfg.plainLaunch && s.sound && s.started

/-- The next access of the software agent, if this step is one, stores into none of these lines. -/
def State.storeAvoids (s : State) (lines : List Nat) : Bool :=
  !s.nextTurn.isSoftware || s.op.isSome ||
    match s.takeTurn.nextRequest with
    | .store index _ => !lines.contains (s.cfg.lineOf (wordIndexAddr index).toNat)
    | _ => true

/-- The caller keeps R326 (c) at this step: it stores into no line of a ring or of an RX buffer. -/
def State.contractKept (s : State) : Bool := s.storeAvoids s.cfg.protectedLines

/-- The part of R326 (c) that the ring invariants need: the caller stores into no line of a ring. -/
def State.ringsLeftAlone (s : State) : Bool := s.storeAvoids s.cfg.bothRings

/-! ## What each command may end with and where it may store -/

/-- The lifecycle states in which the legality table says "yes" (R256). -/
def yesStates : Instr → List Life
  | .ringInit _ => [.stopped, .error]
  | .ringAdvance _ _ => [.stopped, .starting, .running, .error]
  | .ringSlot _ _ => [.stopped, .starting, .running, .error]
  | .ringMarkEnd _ _ => [.stopped, .error]
  | .syncFlush => [.stopped, .starting, .running, .error]
  | .syncInvalidate => [.stopped, .starting, .running, .error]
  | .txSubmit => [.running]
  | .rxPoll => [.running]
  | .rxRelease => [.running]
  | .linkAdjust => [.running]
  | .devStart => [.stopped, .error]
  | .devStop => [.stopped, .running, .error]
  | .devSetMac => [.stopped, .running, .error]

/-- The statuses each command can end with (R291). ILLEGAL is decided before a command is known. -/
def statusesOf : Instr → List Status
  | .ringInit _ => [.ok, .badState]
  | .ringAdvance _ _ => [.ok]
  | .ringSlot _ _ => [.ok, .badArg]
  | .ringMarkEnd _ _ => [.ok, .badArg, .badState]
  | .syncFlush => [.ok, .badArg]
  | .syncInvalidate => [.ok, .badArg]
  | .txSubmit => [.ok, .noDesc, .txTimeout, .badArg, .badState]
  | .rxPoll => [.ok, .noPacket, .badState]
  | .rxRelease => [.ok, .badState]
  | .linkAdjust => [.ok, .noLink, .badArg, .badState]
  | .devStart => [.ok, .noLink, .config, .transport, .resetTimeout, .badState]
  | .devStop => [.ok, .badState]
  | .devSetMac => [.ok, .badArg, .badState]

/-- A state in which command `i` is at phase `p` (R23). -/
def State.atPhase (s : State) (i : Instr) (p : Phase) : State := { s with busy := true, op := some i, phase := p }

/-- A range of memory: a DMA address and a byte count. -/
abbrev Range := Word × Nat

/-- The address is one of the range's bytes. -/
def inRange (e : Range) (b : Nat) : Prop := ∃ k, k < e.2 ∧ b = (e.1 + BitVec.ofNat 32 k).toNat

/-- What a `MemWrite32` stores to memory: the word when DMA is coherent, nothing when it is not (R79, R81). -/
def cpuStore (c : Config) (a : Word) : List Range := if c.coherent then [(c.toDma a, 4)] else []

/-- What the line that a Flush reaches in this phase stores to memory: the whole line when it is dirty (R160). -/
def flushStore (s : State) (todo : List Nat) : List Range :=
  match takePick s.draw.pick todo with
  | none => []
  | some (l, _) =>
    match s.cache.get l with
    | some line => if line.dirty then [(s.cfg.toDma (BitVec.ofNat 32 l), s.cfg.line)] else []
    | none => []

/-- What a phase of RING_INIT stores to memory (R141). -/
def ringStores (r : Ring) (p : RingPhase) (s : State) : List Range :=
  match p with
  | .i2 => (s.cfg.zeroWrites r).flatMap fun w => cpuStore s.cfg w.1
  | .i3 =>
    match r with
    | .tx => []
    | .rx => s.cfg.armWrites.flatMap fun w => cpuStore s.cfg w.1
  | .i4 => cpuStore s.cfg (s.cfg.endWord r)
  | .i5 todo => flushStore s todo
  | .i6 => []

/-- The ranges of memory that the next phase of a command may write: the addresses its rule names, at the place its
meaning computes them. -/
def memStores (i : Instr) (s : State) : List Range :=
  match i, s.phase with
  | .ringInit r, .ringInit p => ringStores r p s
  | .ringMarkEnd r index, .markM2 => cpuStore s.cfg (s.cfg.wordAddr r index 0)
  | .syncFlush, .flushF2 todo => flushStore s todo
  | .txSubmit, .txT2 _ => cpuStore s.cfg (bufWordOf s.cfg s.txSlot)
  | .txSubmit, .txT3 _ todo => flushStore s todo
  | .txSubmit, .txT4 _ => cpuStore s.cfg s.txSlot
  | .txSubmit, .txT5 todo => flushStore s todo
  | .rxRelease, .rxL2 =>
    cpuStore s.cfg s.releaseSlot ++ flushStore s.releaseWrite (s.cfg.syncLines s.releaseSlot s.cfg.descSize)
  | .rxRelease, .rxL2Lines todo => flushStore s todo
  | .devStart, .devS6 p => ringStores .tx p s
  | .devStart, .devS7 p => ringStores .rx p s
  | _, _ => []

/-- The line that a CPU-side access may fill or write: none when DMA is coherent (R79 to R81). -/
def lineTouched (c : Config) (a : Word) : List Nat := if c.coherent then [] else [c.lineOf a.toNat]

/-- The cache lines that a phase of RING_INIT may change. -/
def ringTouches (r : Ring) (p : RingPhase) (s : State) : List Nat :=
  match p with
  | .i2 => (s.cfg.zeroWrites r).flatMap fun w => lineTouched s.cfg w.1
  | .i3 =>
    match r with
    | .tx => []
    | .rx => s.cfg.armWrites.flatMap fun w => lineTouched s.cfg w.1
  | .i4 => lineTouched s.cfg (s.cfg.endWord r)
  | .i5 todo => todo
  | .i6 => []

/-- The lines of the slot at an address and the line of its word 0. -/
def slotTouches (c : Config) (slot : Word) (todo : List Nat) : List Nat := todo ++ lineTouched c slot

/-- The cache lines that the next phase of TX_SUBMIT may change (R182). -/
def txTouches (s : State) : List Nat :=
  match s.phase with
  | .txT1 todo => slotTouches s.cfg s.txSlot todo
  | .txT2 _ => lineTouched s.cfg (bufWordOf s.cfg s.txSlot)
  | .txT3 _ todo => todo
  | .txT4 _ => lineTouched s.cfg s.txSlot
  | .txT5 todo => todo
  | .txT6 => []
  | .txT7 todo => slotTouches s.cfg s.txSlot todo
  | .txT8 => []
  | _ => slotTouches s.cfg s.txSlot (s.cfg.syncLines s.txSlot s.cfg.descSize)

/-- The cache lines that the next phase of RX_POLL may change (R211). -/
def rxTouches (s : State) : List Nat :=
  match s.phase with
  | .rxP1 todo => slotTouches s.cfg s.rxSlot todo
  | .rxP2 w => slotTouches s.cfg (bufWordOf s.cfg s.rxSlot) (s.cfg.syncLines s.viewAddr (s.cfg.len w))
  | .rxP2Lines _ _ todo => todo
  | .rxP3 _ _ => []
  | _ => slotTouches s.cfg s.rxSlot (s.cfg.syncLines s.rxSlot s.cfg.descSize)

/-- The cache lines that the next phase of a command may change. -/
def cacheTouches (i : Instr) (s : State) : List Nat :=
  match i, s.phase with
  | .ringInit r, .ringInit p => ringTouches r p s
  | .ringMarkEnd r index, .markM2 => lineTouched s.cfg (s.cfg.wordAddr r index 0)
  | .syncFlush, .flushF2 todo => todo
  | .syncInvalidate, .invalidateV2 todo => todo
  | .txSubmit, _ => txTouches s
  | .rxPoll, _ => rxTouches s
  | .rxRelease, .rxL2 => slotTouches s.cfg s.releaseSlot (s.cfg.syncLines s.releaseSlot s.cfg.descSize)
  | .rxRelease, .rxL2Lines todo => todo
  | .devStart, .devS6 p => ringTouches .tx p s
  | .devStart, .devS7 p => ringTouches .rx p s
  | _, _ => []

/-- One line of a Flush or of an Invalidate. -/
inductive LineOp where
  | flush | invalidate
  deriving DecidableEq, Repr

/-- What it does to the line. -/
def LineOp.act (o : LineOp) (s : State) (l : Nat) : State :=
  match o with
  | .flush => s.flushLine l
  | .invalidate => s.invalidateLine l

/-- Which lines are left in the Flush or Invalidate that a command is in, and the phase with other lines left
(R160, R162). -/
def linesLeft : Instr → Phase → Option (LineOp × List Nat × (List Nat → Phase))
  | .ringInit _, .ringInit (.i5 todo) => some (.flush, todo, fun l => .ringInit (.i5 l))
  | .syncFlush, .flushF2 todo => some (.flush, todo, .flushF2)
  | .syncInvalidate, .invalidateV2 todo => some (.invalidate, todo, .invalidateV2)
  | .txSubmit, .txT1 todo => some (.invalidate, todo, .txT1)
  | .txSubmit, .txT3 w todo => some (.flush, todo, .txT3 w)
  | .txSubmit, .txT5 todo => some (.flush, todo, .txT5)
  | .txSubmit, .txT7 todo => some (.invalidate, todo, .txT7)
  | .rxPoll, .rxP1 todo => some (.invalidate, todo, .rxP1)
  | .rxPoll, .rxP2Lines n b todo => some (.invalidate, todo, .rxP2Lines n b)
  | .rxRelease, .rxL2Lines todo => some (.flush, todo, .rxL2Lines)
  | .devStart, .devS6 (.i5 todo) => some (.flush, todo, fun l => .devS6 (.i5 l))
  | .devStart, .devS7 (.i5 todo) => some (.flush, todo, fun l => .devS7 (.i5 l))
  | _, _ => none

/-! ## Runs of one agent -/

/-- At most `n` phases of a command, one after another with no other agent's step between, under the draws that stand
in the state. It ends early when the command ends. -/
def runAlone (i : Instr) : Nat → State → Answer
  | 0, s => .next s
  | n + 1, s =>
    match exec i s with
    | .next t => if t.op = some i then runAlone i n t else .next t
    | .fault f => .fault f
    | .refused r => .refused r

/-- One TX DMA turn for each entry, with its draws. -/
def runTxDma : List (Nat × Word × List (Nat × Word)) → State → State
  | [], s => s
  | d :: rest, s => runTxDma rest (txDmaTurn d.1 d.2.1 d.2.2 s)

/-- One RX DMA turn for each entry, with its draw. -/
def runRxDma : List Nat → State → State
  | [], s => s
  | pick :: rest, s => runRxDma rest (rxDmaTurn pick s)

/-- The byte of memory that a Flush of its line leaves: the cached copy's when the line is dirty, memory's own when it is
clean or Invalid (R160, R163). -/
def State.flushedByte (s : State) (x : Word) : Byte :=
  match s.cache.get (s.cfg.lineOf x.toNat) with
  | some line => if line.dirty then line.bytes.getD (x.toNat - s.cfg.lineOf x.toNat) 0#8 else s.mem.read x.toNat
  | none => s.mem.read x.toNat

/-- Word `k` of slot `i` as RING_INIT leaves it in memory (R141). -/
def initWord (c : Config) (r : Ring) (i k : Nat) : Word :=
  if k = 0 then (if i + 1 = c.cap r then c.eorM else 0#32)
  else if r = .rx ∧ k = c.bufWord then c.toDma (c.rxBufAt i)
  else 0#32

/-! ## Fairness (R203, R233, R301, R325) -/

/-- The states of the machine when the agents take their turns in the order of a schedule: each step starts with the
schedule's turn as the next one. -/
def scheduledRun (sched : Nat → Turn) (s : State) : Nat → State
  | 0 => s
  | n + 1 =>
    match step { scheduledRun sched s n with agenda := [sched n] } with
    | .next t => t
    | .fault _ => scheduledRun sched s n
    | .refused _ => scheduledRun sched s n

/-- Weak fairness: an agent that stays enabled from some step on takes a turn at or after that step. -/
def WeaklyFair (enabled : State → Bool) (mine : Turn → Bool) (sched : Nat → Turn) (run : Nat → State) : Prop :=
  ∀ n, (∀ m, n ≤ m → enabled (run m) = true) → ∃ m, n ≤ m ∧ mine (sched m) = true

/-- The TX DMA agent can step (R200, R203). -/
def State.txReady (s : State) : Bool := s.txEnabled && (s.txd != .idle || s.txKick)

/-- The RX DMA agent is part-way through a frame and enabled (R230, R233). -/
def State.rxReady (s : State) : Bool := s.rxEnabled && s.rxd != .idle

/-- The schedule is weakly fair to the timer (R301), the DMA agents (R203, R233) and the software agent while a command
runs; to the MAC agent only when RESET_COMPLETES (R325, D71); to the cache agent and the wire never (R171, R233). -/
structure FairSchedule (sched : Nat → Turn) (run : Nat → State) : Prop where
  software : WeaklyFair State.busy Turn.isSoftware sched run
  timer : WeaklyFair State.waiting Turn.isTimer sched run
  txDma : WeaklyFair State.txReady Turn.isTxDma sched run
  rxDma : WeaklyFair State.rxReady Turn.isRxDma sched run
  mac : (run 0).cfg.resetCompletes = true → WeaklyFair State.macRst Turn.isMac sched run

end Machine

end Sys2Proof
end

