-- ==== Sys2Proof/Certificates/Slice0/Obligations.lean ====
section
/-! DEFINITION. The statements about the model, from the numbered rules of spec/. Each docstring names the rules. A
statement about an instruction says what `exec` answers for its next phase; `runAlone` takes the phases of one command
one after another. -/

open Sys2Proof Sys2Proof.Machine

/-! ## Encoding -/

/-- R120, R122, R126: the decoder reads every well-formed command back from its word. -/
def Obligations.EncodeThenDecode : Prop :=
  ∀ i : Instr, i.wellFormed = true → decode (encode i) = .ok i

/-- R120, R122, R125: a word has one meaning, and a word that decodes is the word of the command it decodes to. -/
def Obligations.DecodeThenEncode : Prop :=
  ∀ (w : Word) (i : Instr), decode w = .ok i → encode i = w ∧ i.wellFormed = true

/-- R122, R125 and the mask and pattern columns of spec/opcode_table.json: a word decodes to a command of a mnemonic
exactly when it belongs to that mnemonic's row. -/
def Obligations.DecodesExactlyTheTable : Prop :=
  ∀ (w : Word) (m : String),
    (∃ i, decode w = .ok i ∧ i.mnemonic = m) ↔ ∃ row ∈ opcodeTable, row.mnemonic = m ∧ row.holds w = true

/-- R120, R122: one word of every command, written out as {OP, SUB, IMM}. -/
def Obligations.WordsWrittenOutDecode : Prop :=
  decode (0x01#8 ++ 0x01#8 ++ 0x0000#16) = .ok (.ringInit .rx) ∧
  decode (0x02#8 ++ 0x00#8 ++ 0x0003#16) = .ok (.ringAdvance .tx 3) ∧
  decode (0x03#8 ++ 0x01#8 ++ 0xFFFF#16) = .ok (.ringSlot .rx 65535) ∧
  decode (0x04#8 ++ 0x00#8 ++ 0x0003#16) = .ok (.ringMarkEnd .tx 3) ∧
  decode (0x10#8 ++ 0x00#8 ++ 0x0000#16) = .ok .syncFlush ∧
  decode (0x11#8 ++ 0x00#8 ++ 0x0000#16) = .ok .syncInvalidate ∧
  decode (0x20#8 ++ 0x00#8 ++ 0x0000#16) = .ok .txSubmit ∧
  decode (0x30#8 ++ 0x00#8 ++ 0x0000#16) = .ok .rxPoll ∧
  decode (0x31#8 ++ 0x00#8 ++ 0x0000#16) = .ok .rxRelease ∧
  decode (0x40#8 ++ 0x00#8 ++ 0x0000#16) = .ok .linkAdjust ∧
  decode (0x50#8 ++ 0x00#8 ++ 0x0000#16) = .ok .devStart ∧
  decode (0x51#8 ++ 0x00#8 ++ 0x0000#16) = .ok .devStop ∧
  decode (0x52#8 ++ 0x00#8 ++ 0x0000#16) = .ok .devSetMac

/-- R125, R292: which words are ILLEGAL, decided from the word alone, and that such a command changes nothing but RES0
and RES1, with BUSY 0 again. That CMD holds the word is the model's reading (DEDUCED, log entry 26), and so is the one
step for the write and its ILLEGAL end (DESIGN CHOICE, log entry 4). -/
def Obligations.IllegalCommands : Prop :=
  (∀ w : Word, (∃ e, decode w = .error e) ↔
    ((w.extractLsb' 24 8).toNat ∉ [0x01, 0x02, 0x03, 0x04, 0x10, 0x11, 0x20, 0x30, 0x31, 0x40, 0x50, 0x51, 0x52] ∨
     ((w.extractLsb' 24 8).toNat ∈ [0x01, 0x02, 0x03, 0x04] ∧ 1 < (w.extractLsb' 16 8).toNat) ∨
     ((w.extractLsb' 24 8).toNat ∉ [0x01, 0x02, 0x03, 0x04] ∧ w.extractLsb' 16 8 ≠ 0#8) ∨
     ((w.extractLsb' 24 8).toNat ∉ [0x02, 0x03, 0x04] ∧ w.extractLsb' 0 16 ≠ 0#16))) ∧
  (∀ (w : Word) (e : DecodeError) (s : State), decode w = .error e → s.busy = false → s.op = none → s.phase = .first →
    softwareAccess (.writeCmd w) s = .next { s with cmd := w, res0 := 0xFF000000#32, res1 := 0#32 })

/-! ## A step of the machine -/

/-- R12, R22, R23, R70, R75: a step of the software agent runs the command whose word it writes to CMD, from its first
phase, or the next phase of the command that runs, or else its own access: a write of ARG0 or ARG1, refused while BUSY = 1
like one of CMD (log entry 21), or an aligned word of its memory through the cache (log entry 18). That the write of CMD
and the first phase are one step is log entry 4, and that `agenda`, `requests` and `draw` name the turn, the access and
the draws is log entries 3 and 4: the model's choices (DESIGN CHOICE). -/
def Obligations.StepRunsTheCommand : Prop :=
  (∀ (s : State) (pick : Nat) (phy : PhyAnswer) (w : Word) (i : Instr),
    s.nextTurn = .software pick phy → s.op = none → s.busy = false → s.takeTurn.nextRequest = .writeCmd w →
    decode w = .ok i →
    step s = exec i { s with
      agenda := s.agenda.tail
      ticks := s.ticks + 1
      requests := s.requests.tail
      draw := ⟨pick, phy⟩
      cmd := w
      phase := .first }) ∧
  (∀ (s : State) (pick : Nat) (phy : PhyAnswer) (i : Instr), s.nextTurn = .software pick phy → s.op = some i →
    step s = exec i { s with agenda := s.agenda.tail, ticks := s.ticks + 1, draw := ⟨pick, phy⟩ }) ∧
  (∀ (s : State) (pick : Nat) (phy : PhyAnswer), s.nextTurn = .software pick phy → s.op = none →
    step s = softwareAccess s.takeTurn.nextRequest { s with
      agenda := s.agenda.tail
      ticks := s.ticks + 1
      requests := s.requests.tail
      draw := ⟨pick, phy⟩ }) ∧
  (∀ (s : State) (v : Word),
    softwareAccess .pause s = .next s ∧
    (s.busy = false → softwareAccess (.writeArg0 v) s = .next { s with arg0 := v } ∧
      softwareAccess (.writeArg1 v) s = .next { s with arg1 := v }) ∧
    (s.busy = true → softwareAccess (.writeArg0 v) s = .refused .writeWhileBusy ∧
      softwareAccess (.writeArg1 v) s = .refused .writeWhileBusy ∧
      softwareAccess (.writeCmd v) s = .refused .writeWhileBusy)) ∧
  (∀ (s : State) (index : BitVec 30) (v : Word),
    softwareAccess (.load index) s = .next (s.memReadState (BitVec.ofNat 32 (4 * index.toNat))) ∧
    softwareAccess (.store index v) s = .next (s.memWrite (BitVec.ofNat 32 (4 * index.toNat)) v)) ∧
  (∀ (s : State) (a v : Word),
    s.memReadState a = { s with cache := (s.memReadState a).cache } ∧
    s.memWrite a v = { s with mem := (s.memWrite a v).mem, cache := (s.memWrite a v).cache })

/-- Log entry 4 (the model's own interface): a command word placed by `withFetchWord` is the one the next step runs. -/
def Obligations.StepRunsTheFetchWord : Prop :=
  ∀ (s : State) (w : Word) (i : Instr), decode w = .ok i →
    step (s.withFetchWord 32 w.toNat) = exec i { s with
      ticks := s.ticks + 1
      draw := ⟨0, .transport⟩
      busy := false
      op := none
      cmd := w
      phase := .first }

/-- R7: a step of any other agent is one atomic step of that agent's rule. That `agenda` names the agent and its draws, and
that a turn of an agent that is not enabled changes nothing, is the model's choice (DESIGN CHOICE, log entry 3). -/
def Obligations.StepRunsTheAgents : Prop :=
  ∀ s : State,
    (∀ pick x reserved, s.nextTurn = .txDma pick x reserved → step s = .next (txDmaTurn pick x reserved s.takeTurn)) ∧
    (∀ f, s.nextTurn = .wire f → step s = .next (wireTurn f s.takeTurn)) ∧
    (∀ pick, s.nextTurn = .rxDma pick → step s = .next (rxDmaTurn pick s.takeTurn)) ∧
    (∀ a keep, s.nextTurn = .cacheWriteBack a keep → step s = .next (cacheWriteBackTurn a keep s.takeTurn)) ∧
    (∀ a, s.nextTurn = .cacheFill a → step s = .next (cacheFillTurn a s.takeTurn)) ∧
    (∀ a, s.nextTurn = .cacheDrop a → step s = .next (cacheDropTurn a s.takeTurn)) ∧
    (∀ regs p q, s.nextTurn = .mac regs p q → step s = .next (macTurn regs p q s.takeTurn)) ∧
    (s.nextTurn = .timer → step s = .next (timerTurn s.takeTurn))

/-! ## Power-on and whole-machine rules -/

/-- R55, R321: the power-on values that the rule gives (those it leaves unspecified are log entry 5's). That reset is the
power-on state of CFG-A is the model's choice (DESIGN CHOICE, log entry 2). -/
def Obligations.PowerOnValues : Prop :=
  State.reset = State.powerOn Config.reference ∧
  ∀ c : Config,
    (State.powerOn c).cfg = c ∧ (State.powerOn c).life = .stopped ∧ (State.powerOn c).busy = false ∧
    (State.powerOn c).op = none ∧ (State.powerOn c).rxOut = false ∧ (State.powerOn c).txKick = false ∧
    (State.powerOn c).macRst = false ∧ (State.powerOn c).expired = false ∧ (State.powerOn c).wireTx = [] ∧
    (State.powerOn c).macAddr = c.macAddr ∧ ((State.powerOn c).regRead .maccr).getLsbD 31 = false

/-- The shape that every state of a run has holds at power-on, under every well-formed configuration, and at reset. It
rests on the power-on values of log entries 5 and 6 (DESIGN CHOICE) and, for reset, on the configuration of log entry
2. -/
def Obligations.PowerOnSound : Prop :=
  State.reset.sound = true ∧ ∀ c : Config, c.wellFormed = true → (State.powerOn c).sound = true

/-- R21 to R26, R33 (a), R50, R51, R54, R56, R146, R259: every step of every agent keeps the shape. -/
def Obligations.StepKeepsSound : Prop :=
  ∀ s t : State, s.sound = true → step s = .next t → t.sound = true

/-- R8: the configuration never changes. -/
def Obligations.StepKeepsConfiguration : Prop :=
  ∀ s t : State, step s = .next t → t.cfg = s.cfg

/-- R290, R297: there is no trap and no step without a successor, whatever agent steps and whatever it draws. That no
agent is ever stuck on an address (R72) rests on the model's choice that every 32-bit address is memory (DESIGN CHOICE,
unsafe, log entry 7). -/
def Obligations.StepNeverStops : Prop :=
  ∀ s : State, s.seqOk = true → ∃ t, step s = .next t

/-- R121, R130: the fields of RES0 and the numbers of the eleven statuses. -/
def Obligations.ResultWordFields : Prop :=
  (∀ (s : State) (st : Status) (v : Nat) (r1 : Word),
    (s.endCommand st v r1).statusCode = st.code ∧ (s.endCommand st v r1).resultValue = BitVec.ofNat 24 v ∧
    (s.endCommand st v r1).res1 = r1 ∧ (s.endCommand st v r1).busy = false ∧ (s.endCommand st v r1).op = none) ∧
  [Status.ok, .noDesc, .txTimeout, .noPacket, .noLink, .config, .transport, .resetTimeout, .badArg, .badState,
    .illegal].map Status.code =
    [0x00#8, 0x01#8, 0x02#8, 0x03#8, 0x04#8, 0x05#8, 0x06#8, 0x07#8, 0x08#8, 0x09#8, 0xFF#8]

/-- R121, R291: which statuses each command can end with, and that every status but OK comes with value 0 and RES1 0. -/
def Obligations.StatusesOfCommands : Prop :=
  ∀ (i : Instr) (s t : State), exec i s = .next t → t.op = none →
    ∃ st ∈ statusesOf i, t.statusCode = st.code ∧ (st ≠ .ok → t.resultValue = 0#24 ∧ t.res1 = 0#32)

/-- R256: the legality table. "no" completes at once with BAD_STATE and changes nothing else; "yes" is not BAD_STATE,
but for RX_POLL with a packet outstanding and RX_RELEASE with none. -/
def Obligations.LegalityTable : Prop :=
  ∀ (i : Instr) (s : State), s.phase = .first →
    (s.life ∉ yesStates i → exec i s = .next (s.endCommand .badState 0 0#32)) ∧
    (s.life ∈ yesStates i → ∃ t, exec i s = .next t ∧
      ((t.op = none ∧ t.statusCode = 0x09#8) ↔ (i = .rxPoll ∧ s.rxOut = true) ∨ (i = .rxRelease ∧ s.rxOut = false)))

/-- R20 to R29, R47, R54, R56, R57, R146, R290: what a phase of each command leaves alone. Nothing of the configuration,
the operands, the DMA agents' records, the wire or the model's own inputs changes; a command that goes on writes no
result; and every other register changes only under the commands whose rules write it. -/
def Obligations.CommandFrame : Prop :=
  ∀ (i : Instr) (s t : State), exec i s = .next t →
    (t.cfg = s.cfg ∧ t.cmd = s.cmd ∧ t.arg0 = s.arg0 ∧ t.arg1 = s.arg1 ∧ t.txd = s.txd ∧ t.rxd = s.rxd ∧
      t.wireTx = s.wireTx ∧ t.agenda = s.agenda ∧ t.requests = s.requests ∧ t.ticks = s.ticks ∧ t.draw = s.draw) ∧
    ((t.op = none ∧ t.busy = false ∧ t.phase = .first) ∨
      (t.op = some i ∧ t.busy = true ∧ t.res0 = s.res0 ∧ t.res1 = s.res1)) ∧
    (i ∉ [.devStart, .devStop] → t.life = s.life) ∧
    (i ≠ .devSetMac → t.macAddr = s.macAddr) ∧
    (i ∉ [.linkAdjust, .devStart, .devStop, .devSetMac] → t.mac = s.mac) ∧
    (i ∉ [.linkAdjust, .devStart, .devStop] → t.macRst = s.macRst) ∧
    (i ≠ .devStart → t.txHwptr = s.txHwptr ∧ t.rxHwptr = s.rxHwptr) ∧
    (i ≠ .txSubmit → t.txKick = s.txKick) ∧
    (i ∉ [.txSubmit, .devStart] → t.expired = s.expired) ∧
    (i ∉ [.ringInit .tx, .txSubmit, .devStart] → t.txCur = s.txCur) ∧
    (i ∉ [.ringInit .rx, .rxRelease, .devStart] → t.rxCur = s.rxCur) ∧
    (i ∉ [.ringInit .rx, .rxPoll, .rxRelease, .devStart] → t.rxOut = s.rxOut) ∧
    (i ≠ .rxPoll → t.rxOutSlot = s.rxOutSlot)

/-- R79 to R81, R141, R144, R160, R162, R182, R211, R212: every byte of memory outside the ranges that the phase stores
to, and every cache line outside the ones it touches, is as before. `memStores` and `cacheTouches` compute them from the
state the phase starts in, with the addresses the meanings use; a command that has none stores nothing. -/
def Obligations.MemoryFrame : Prop :=
  ∀ (i : Instr) (s t : State), s.storeOk = true → exec i s = .next t →
    (∀ b, (∀ e ∈ memStores i s, ¬ inRange e b) → t.mem.read b = s.mem.read b) ∧
    (∀ l, l ∉ cacheTouches i s → t.cache.get l = s.cache.get l)

/-- R12, R76, R160, R162: a Flush or an Invalidate inside any command takes one line at a time, the one that the draw
picks; for every line that is left some draw makes it that one; and the last line's step goes on as the phase does with no
line left. No line is taken when DMA is coherent. That the last line and the rest of the phase are one step is the model's
reading (DEDUCED, log entry 10), and so is that a line filled again meanwhile is not taken twice (DEDUCED, log entry
29). -/
def Obligations.LineSteps : Prop :=
  (∀ (i : Instr) (s : State) (o : LineOp) (todo : List Nat) (again : List Nat → Phase),
    linesLeft i s.phase = some (o, todo, again) → todo ≠ [] →
    ∃ x rest, takePick s.draw.pick todo = some (x, rest) ∧ (x :: rest).Perm todo ∧
      exec i s =
        if rest = [] then exec i { o.act s x with phase := again [] } else .next ((o.act s x).atPhase i (again rest))) ∧
  (∀ (i : Instr) (s : State) (o : LineOp) (todo : List Nat) (again : List Nat → Phase),
    linesLeft i s.phase = some (o, todo, again) → ∀ x ∈ todo, ∃ pick rest, (x :: rest).Perm todo ∧
      exec i { s with draw := ⟨pick, s.draw.phy⟩ } =
        if rest = [] then exec i { o.act { s with draw := ⟨pick, s.draw.phy⟩ } x with phase := again [] }
        else .next ((o.act { s with draw := ⟨pick, s.draw.phy⟩ } x).atPhase i (again rest))) ∧
  (∀ (c : Config) (a : Word) (n : Nat), c.coherent = true → c.syncLines a n = [])

/-! ## The CPU side, the DMA side and the registers -/

/-- R79 to R81: an aligned CPU-side write is read back and changes the CPU's view of no other byte, reaching memory only
when DMA is coherent; a read returns the CPU's view of its four bytes, and changes neither that view nor memory. The
clauses on the view take the identity translation when DMA is coherent (a translation may map two bytes to one). -/
def Obligations.CpuAccess : Prop :=
  ∀ (s : State) (a v : Word), s.storeOk = true → a.toNat % 4 = 0 →
    (s.memWrite a v).memRead a = v ∧
    (s.cfg.coherent = false → (s.memWrite a v).mem = s.mem) ∧
    (s.memReadState a).mem = s.mem ∧
    ((s.cfg.coherent = true → s.cfg.toDmaMap = []) →
      (∀ x : Word, 4 ≤ (x - a).toNat → (s.memWrite a v).cpuByte x = s.cpuByte x) ∧
      (∀ x : Word, (s.memReadState a).cpuByte x = s.cpuByte x) ∧
      s.memRead a = bytesWord s.cfg.endian
        [s.cpuByte a, s.cpuByte (a + 1#32), s.cpuByte (a + 2#32), s.cpuByte (a + 3#32)])

/-- R27, R28, R40, R54, R77, R110, R324: each register reads back what was written to it and no other register changes;
the doorbell has no stored state and sets the kick; MACCR's bit 31 reads the reset in progress, which a write can start
and not end; a ring base write sets the DMA pointer. -/
def Obligations.RegisterAccess : Prop :=
  (∀ (s : State) (r : MacReg) (v : Word), r ≠ .nptxpd → r ≠ .maccr → (s.regWrite r v).regRead r = v) ∧
  (∀ (s : State) (r q : MacReg) (v : Word), q ≠ r → (s.regWrite r v).regRead q = s.regRead q) ∧
  (∀ (s : State) (v : Word), s.regWrite .nptxpd v = { s with txKick := true }) ∧
  (∀ (s : State) (v : Word), s.mac.maccr.getLsbD 31 = false →
    (s.regRead .maccr).getLsbD 31 = s.macRst ∧
    (s.regWrite .maccr v).macRst = (s.macRst || v.getLsbD 31) ∧
    ∀ j, j < 31 → ((s.regWrite .maccr v).regRead .maccr).getLsbD j = v.getLsbD j) ∧
  (∀ (s : State) (v : Word), (s.regWrite .nptxrBadr v).txHwptr = v ∧ (s.regWrite .rxrBadr v).rxHwptr = v) ∧
  (∀ q r : MacReg, regOffset q = regOffset r → q = r)

/-- R82: a DMA agent reads and writes memory itself: it never changes the cache, and what it does is the same whatever
the cache holds. -/
def Obligations.DmaIgnoresTheCache : Prop :=
  ∀ (s : State) (x : Cache),
    (∀ pick y reserved, (txDmaTurn pick y reserved s).cache = s.cache ∧
      txDmaTurn pick y reserved { s with cache := x } = { txDmaTurn pick y reserved s with cache := x }) ∧
    (∀ f, (wireTurn f s).cache = s.cache ∧ wireTurn f { s with cache := x } = { wireTurn f s with cache := x }) ∧
    (∀ pick, (rxDmaTurn pick s).cache = s.cache ∧
      rxDmaTurn pick { s with cache := x } = { rxDmaTurn pick s with cache := x })

/-- R168 to R170: what the cache agent may do to a dirty, an Invalid and a clean line of a platform whose DMA is not
coherent. That its turn does nothing on a line in another state, and nothing at all when DMA is coherent, where the rules
give it no step, is the model's choice (DESIGN CHOICE, log entries 3 and 28). -/
def Obligations.CacheAgentSteps : Prop :=
  (∀ (s : State) (a : Word), s.cfg.coherent = true →
    (∀ keep, cacheWriteBackTurn a keep s = s) ∧ cacheFillTurn a s = s ∧ cacheDropTurn a s = s) ∧
  (∀ (s : State) (a : Word), s.cfg.coherent = false →
    (∀ bytes, s.cache.get (s.cfg.lineOf a.toNat) = some ⟨bytes, true⟩ →
      (∀ keep, cacheWriteBackTurn a keep s = { s with
        mem := s.mem.writeBytes (s.cfg.toDma (BitVec.ofNat 32 (s.cfg.lineOf a.toNat))) bytes
        cache := (cacheWriteBackTurn a keep s).cache }) ∧
      (cacheWriteBackTurn a true s).cache.get (s.cfg.lineOf a.toNat) = some ⟨bytes, false⟩ ∧
      (cacheWriteBackTurn a false s).cache.get (s.cfg.lineOf a.toNat) = none ∧
      cacheFillTurn a s = s ∧ cacheDropTurn a s = s) ∧
    (s.cache.get (s.cfg.lineOf a.toNat) = none →
      cacheFillTurn a s = { s with cache := (cacheFillTurn a s).cache } ∧
      (cacheFillTurn a s).cache.get (s.cfg.lineOf a.toNat) =
        some ⟨s.mem.readBytes (s.cfg.toDma (BitVec.ofNat 32 (s.cfg.lineOf a.toNat))) s.cfg.line, false⟩ ∧
      (∀ keep, cacheWriteBackTurn a keep s = s) ∧ cacheDropTurn a s = s) ∧
    (∀ bytes, s.cache.get (s.cfg.lineOf a.toNat) = some ⟨bytes, false⟩ →
      cacheDropTurn a s = { s with cache := (cacheDropTurn a s).cache } ∧
      (cacheDropTurn a s).cache.get (s.cfg.lineOf a.toNat) = none ∧
      (∀ keep, cacheWriteBackTurn a keep s = s) ∧ cacheFillTurn a s = s) ∧
    (∀ l keep, l ≠ s.cfg.lineOf a.toNat →
      (cacheWriteBackTurn a keep s).cache.get l = s.cache.get l ∧ (cacheFillTurn a s).cache.get l = s.cache.get l ∧
      (cacheDropTurn a s).cache.get l = s.cache.get l))

/-! ## The rings -/

/-- R142, R143: RING_ADVANCE answers (i + 1) mod cap, and RING_SLOT the slot's CPU address, or BAD_ARG past the capacity;
both in every state, and both touch nothing but RES0 and RES1. -/
def Obligations.RingIndexResults : Prop :=
  ∀ (r : Ring) (i : Nat) (s : State),
    exec (.ringAdvance r i) s = .next (s.endCommand .ok ((i + 1) % s.cfg.cap r) 0#32) ∧
    (s.cfg.wellFormed = true →
      (i + 1) % s.cfg.cap r < s.cfg.cap r ∧
      (s.endCommand .ok ((i + 1) % s.cfg.cap r) 0#32).resultValue.toNat = (i + 1) % s.cfg.cap r) ∧
    (i < s.cfg.cap r →
      exec (.ringSlot r i) s = .next (s.endCommand .ok 0 (s.cfg.base r + BitVec.ofNat 32 (i * s.cfg.descSize)))) ∧
    (s.cfg.cap r ≤ i → exec (.ringSlot r i) s = .next (s.endCommand .badArg 0 0#32)) ∧
    (s.cfg.wellFormed = true → s.cfg.descAlign = 16 →
      (s.cfg.base r + BitVec.ofNat 32 (i * s.cfg.descSize)).toNat % 16 = 0)

/-- R144: RING_MARK_END checks the lifecycle, then the index, and sets EOR in word 0 of the last slot by a CPU-side
read-modify-write that does not flush. -/
def Obligations.RingMarkEndResult : Prop :=
  (∀ (r : Ring) (i : Nat) (s : State), s.phase = .first →
    (s.life ∉ [.stopped, .error] → exec (.ringMarkEnd r i) s = .next (s.endCommand .badState 0 0#32)) ∧
    (s.life ∈ [.stopped, .error] → i + 1 ≠ s.cfg.cap r →
      exec (.ringMarkEnd r i) s = .next (s.endCommand .badArg 0 0#32)) ∧
    (s.life ∈ [.stopped, .error] → i + 1 = s.cfg.cap r →
      exec (.ringMarkEnd r i) s = .next (s.atPhase (.ringMarkEnd r i) .markM2))) ∧
  (∀ (r : Ring) (i : Nat) (s : State), s.phase = .markM2 → s.storeOk = true → s.cfg.wellFormed = true →
    s.cfg.descAlign = 16 →
    ∃ t, exec (.ringMarkEnd r i) s = .next t ∧
      t = { s.endCommand .ok 0 0#32 with mem := t.mem, cache := t.cache } ∧
      t.memRead (s.cfg.wordAddr r i 0) = s.memRead (s.cfg.wordAddr r i 0) ||| s.cfg.eorM ∧
      (s.cfg.coherent = false → t.mem = s.mem) ∧
      ((s.cfg.coherent = true → s.cfg.toDmaMap = []) →
        ∀ x : Word, 4 ≤ (x - s.cfg.wordAddr r i 0).toNat → t.cpuByte x = s.cpuByte x))

/-- R141: the phases of RING_INIT. -/
def Obligations.RingInitPhases : Prop :=
  ∀ (r : Ring) (s : State),
    (s.phase = .first → exec (.ringInit r) s =
      if s.life = .stopped ∨ s.life = .error then .next (s.atPhase (.ringInit r) (.ringInit .i2))
      else .next (s.endCommand .badState 0 0#32)) ∧
    (s.phase = .ringInit .i2 → exec (.ringInit r) s =
      .next ((s.memWriteAll ((s.cfg.ringWords r).map fun a => (a, 0#32))).atPhase (.ringInit r) (.ringInit .i3))) ∧
    (s.phase = .ringInit .i3 → exec (.ringInit r) s =
      .next ((match r with
        | .tx => s
        | .rx => s.memWriteAll ((List.range s.cfg.rxCap).map fun i =>
            (s.cfg.wordAddr .rx i s.cfg.bufWord, s.cfg.toDma (s.cfg.rxBufAt i)))).atPhase (.ringInit r) (.ringInit .i4))) ∧
    (s.phase = .ringInit .i4 → exec (.ringInit r) s =
      .next (((s.memReadState (s.cfg.wordAddr r (s.cfg.cap r - 1) 0)).memWrite (s.cfg.wordAddr r (s.cfg.cap r - 1) 0)
        (s.memRead (s.cfg.wordAddr r (s.cfg.cap r - 1) 0) ||| s.cfg.eorM)).atPhase (.ringInit r)
        (.ringInit (.i5 (s.cfg.syncLines (s.cfg.base r) (s.cfg.cap r * s.cfg.descSize)))))) ∧
    (s.phase = .ringInit (.i5 []) → exec (.ringInit r) s = .next (s.atPhase (.ringInit r) (.ringInit .i6))) ∧
    (s.phase = .ringInit .i6 → exec (.ringInit r) s =
      .next ((match r with
        | .tx => { s with txCur := 0 }
        | .rx => { s with rxCur := 0, rxOut := false }).endCommand .ok 0 0#32))

/-- R141, R145: RING_INIT with no other agent's step between its phases ends OK with the ring's words in memory as the
rule gives them (EOR in the last slot only), every line of the ring Invalid, the cursor 0, and no byte outside the ring's
lines changed. -/
def Obligations.RingInitAlone : Prop :=
  ∀ (r : Ring) (s : State), s.cfg.launchOk = true → s.cfg.toDmaMap = [] → s.storeOk = true → s.phase = .first →
    s.life ∈ [.stopped, .error] →
    ∃ n t, runAlone (.ringInit r) n s = .next t ∧ t.op = none ∧ t.busy = false ∧ t.res0 = 0#32 ∧ t.res1 = 0#32 ∧
      t.life = s.life ∧ t.cur r = 0 ∧ (r = .rx → t.rxOut = false) ∧
      (∀ i k, i < s.cfg.cap r → k < s.cfg.descWords → t.ramWord (s.cfg.wordAddr r i k) = initWord s.cfg r i k) ∧
      (∀ l ∈ s.cfg.lines (s.cfg.base r).toNat (s.cfg.cap r * s.cfg.descSize), t.cache.get l = none) ∧
      (∀ x : Word, s.cfg.lineOf x.toNat ∉ s.cfg.lines (s.cfg.base r).toNat (s.cfg.cap r * s.cfg.descSize) →
        t.mem.read x.toNat = s.mem.read x.toNat)

/-- R33 (b), R145: every step of every agent keeps the end-of-ring flag on slot cap - 1 only, in memory and in every
cached copy, until the next RING_INIT or DEV_START. Kept with it, since the rules that keep it steer by them: both DMA
pointers at slots of their rings (R33 (e) for the RX ring), the buffer addresses of the RX ring, and the flag in what a
command or a DMA agent carries over. R33 calls such a ring well started; the caller keeps R326 (c) for the rings. -/
def Obligations.StepKeepsEndMarks : Prop :=
  ∀ s t : State, s.cfg.plainLaunch = true → s.sound = true → s.ringsStand = true → s.ringsLeftAlone = true →
    s.ringsMarked = true → step s = .next t → t.ringsMarked = true

/-- R33 (c), (d), R26, R184, R186 (d), R213: every step of every agent on a well-started ring keeps: no ring line is dirty
but those that the running command still flushes; no clean copy shows a slot to be software's that memory gives to
hardware; each agent is part-way through a slot only while memory gives it the slot; at most one TX slot is away from
software. For the RX ring where no two descriptors share a cache line (R336). And R326 (c), R338, R339: while the caller
keeps its contract, every step, on a started ring or not, leaves every line over an RX buffer free of dirty data, once
the boot requirement R327 (3) has made it so. -/
def Obligations.StepKeepsSlots : Prop :=
  (∀ s t : State, s.wellStarted = true → s.ringsLeftAlone = true → s.ringsMarked = true → s.ringsFlushed = true →
    s.txSlotsOk = true → step s = .next t →
    t.ringsFlushed = true ∧ t.txSlotsOk = true ∧
    (s.cfg.rxSlotsApart = true → s.rxSlotsOk = true → t.rxSlotsOk = true)) ∧
  (∀ s t : State, s.cfg.launchOk = true → s.sound = true → s.contractKept = true → s.rxBuffersClean = true →
    step s = .next t → t.rxBuffersClean = true)

/-- R32, R34: in a step of any agent on a well-started ring each slot stays in its state or takes one of the transitions
of its rule. The slot states are read from memory and the running phase (DEDUCED, log entry 25); a slot that RX_RELEASE
has flushed counts as held until L3, so a delivery in between is seen at L3 (DEDUCED, log entry 31). -/
def Obligations.SlotTransitions : Prop :=
  ∀ s t : State, s.wellStarted = true → s.ringsLeftAlone = true → s.ringsMarked = true → s.ringsFlushed = true →
    s.txSlotsOk = true → step s = .next t →
    (∀ i, i < s.cfg.txCap → t.txSlotState i = s.txSlotState i ∨
      (s.txSlotState i, t.txSlotState i) ∈
        [(TxSlot.free, TxSlot.filling), (.filling, .hw), (.hw, .done), (.done, .free), (.hw, .stuck), (.stuck, .free)]) ∧
    (s.cfg.rxSlotsApart = true → s.rxSlotsOk = true → ∀ i, i < s.cfg.rxCap → t.rxSlotState i = s.rxSlotState i ∨
      (s.rxSlotState i, t.rxSlotState i) ∈
        [(RxSlot.armed, RxSlot.ready), (.armed, .bad), (.ready, .held), (.held, .armed), (.held, .ready), (.held, .bad)])

/-- R33 (e), R202: the TX DMA pointer and the cursor agree at every step of every agent on a well-started ring, until a
TX_SUBMIT ends with TX_TIMEOUT; and from that agreement the pointer is at the cursor's slot whenever no TX_SUBMIT runs and
no slot is stuck. -/
def Obligations.TxPointerAgrees : Prop :=
  (∀ s t : State, s.wellStarted = true → s.ringsLeftAlone = true → s.ringsMarked = true → s.ringsFlushed = true →
    s.txSlotsOk = true → s.txInStep = true → step s = .next t →
    t.txInStep = true ∨ (s.op = some .txSubmit ∧ t.op = none ∧ t.statusCode = 0x02#8)) ∧
  (∀ s : State, s.txInStep = true → s.txAgree = true) ∧
  (∀ s : State, s.txAgree = true → s.op ≠ some .txSubmit → (∀ i, i < s.cfg.txCap → s.txSlotState i ≠ .stuck) →
    s.txHwptr = s.cfg.toDma s.cfg.txBase + BitVec.ofNat 32 (s.txCur * s.cfg.descSize))

/-! ## Coherency -/

/-- R161: lines(a, n) is empty for n = 0, else exactly the lines that overlap [a, a + n), each once and in rising
order. -/
def Obligations.LinesOfRange : Prop :=
  ∀ (c : Config) (a n : Nat),
    c.lines a 0 = [] ∧ (c.lines a n).Pairwise (· < ·) ∧
    (0 < n → ∀ l, l ∈ c.lines a n ↔ l % c.line = 0 ∧ l < a + n ∧ a < l + c.line)

/-- R163, R164: the first phase of SYNC_FLUSH and of SYNC_INVALIDATE, and their end when no line is left. -/
def Obligations.SyncPhases : Prop :=
  (∀ s : State, s.phase = .first → exec .syncFlush s =
    if 2 ^ 32 < s.arg0.toNat + s.arg1.toNat then .next (s.endCommand .badArg 0 0#32)
    else .next (s.atPhase .syncFlush
      (.flushF2 (if s.cfg.coherent then [] else s.cfg.lines s.arg0.toNat s.arg1.toNat)))) ∧
  (∀ s : State, s.phase = .first → exec .syncInvalidate s =
    if 2 ^ 32 < s.arg0.toNat + s.arg1.toNat then .next (s.endCommand .badArg 0 0#32)
    else .next (s.atPhase .syncInvalidate
      (.invalidateV2 (if s.cfg.coherent then [] else s.cfg.lines s.arg0.toNat s.arg1.toNat)))) ∧
  (∀ s : State, s.phase = .flushF2 [] → exec .syncFlush s = .next (s.endCommand .ok 0 0#32)) ∧
  (∀ s : State, s.phase = .invalidateV2 [] → exec .syncInvalidate s = .next (s.endCommand .ok 0 0#32))

/-- R160, R162: one line of a Flush writes the line's whole CPU copy to memory when it is dirty and nothing when it is
not, and leaves it Invalid; one line of an Invalidate leaves it Invalid and writes nothing. -/
def Obligations.LineOperations : Prop :=
  ∀ (s : State) (l : Nat), s.storeOk = true → s.cfg.line ≤ 2 ^ 32 →
    (s.flushLine l = { s with mem := (s.flushLine l).mem, cache := (s.flushLine l).cache }) ∧
    (s.flushLine l).cache.get l = none ∧
    (∀ k, k ≠ l → (s.flushLine l).cache.get k = s.cache.get k) ∧
    (∀ y, s.cache.get l = some y → y.dirty = true →
      (∀ k, k < s.cfg.line →
        (s.flushLine l).mem.read (s.cfg.toDma (BitVec.ofNat 32 l) + BitVec.ofNat 32 k).toNat = y.bytes.getD k 0#8) ∧
      (∀ b, ¬ inRange (s.cfg.toDma (BitVec.ofNat 32 l), s.cfg.line) b → (s.flushLine l).mem.read b = s.mem.read b)) ∧
    ((∀ y, s.cache.get l = some y → y.dirty = false) → (s.flushLine l).mem = s.mem) ∧
    (s.invalidateLine l = { s with cache := (s.invalidateLine l).cache }) ∧
    (s.invalidateLine l).cache.get l = none ∧
    (∀ k, k ≠ l → (s.invalidateLine l).cache.get k = s.cache.get k)

/-- R160, R162 to R166: SYNC_FLUSH and SYNC_INVALIDATE with no other agent's step between their phases, DMA not coherent.
SYNC_FLUSH ends OK, every line of the range is Invalid, memory holds the CPU's copy of every byte of a dirty line and is
otherwise unchanged, and so is every other line. SYNC_INVALIDATE ends OK, every line of the range is Invalid, every other
line is as before and no byte of memory is written. -/
def Obligations.SyncAlone : Prop :=
  (∀ s : State, s.phase = .first → s.storeOk = true → s.cfg.coherent = false → s.cfg.toDmaMap = [] →
    s.cfg.line ≤ 2 ^ 32 → s.arg0.toNat + s.arg1.toNat ≤ 2 ^ 32 →
    ∃ n t, runAlone .syncFlush n s = .next t ∧
      t = { s.endCommand .ok 0 0#32 with mem := t.mem, cache := t.cache } ∧
      (∀ l ∈ s.cfg.lines s.arg0.toNat s.arg1.toNat, t.cache.get l = none) ∧
      (∀ l, l ∉ s.cfg.lines s.arg0.toNat s.arg1.toNat → t.cache.get l = s.cache.get l) ∧
      (∀ x : Word, s.cfg.lineOf x.toNat ∈ s.cfg.lines s.arg0.toNat s.arg1.toNat →
        t.mem.read x.toNat = s.flushedByte x) ∧
      (∀ x : Word, s.cfg.lineOf x.toNat ∉ s.cfg.lines s.arg0.toNat s.arg1.toNat →
        t.mem.read x.toNat = s.mem.read x.toNat)) ∧
  (∀ s : State, s.phase = .first → s.cfg.coherent = false → s.arg0.toNat + s.arg1.toNat ≤ 2 ^ 32 →
    ∃ n t, runAlone .syncInvalidate n s = .next t ∧
      t = { s.endCommand .ok 0 0#32 with cache := t.cache } ∧
      (∀ l ∈ s.cfg.lines s.arg0.toNat s.arg1.toNat, t.cache.get l = none) ∧
      (∀ l, l ∉ s.cfg.lines s.arg0.toNat s.arg1.toNat → t.cache.get l = s.cache.get l))

/-! ## Transmission -/

/-- R180: the padded length, for MIN_FRAME = 60, and that the running TX_SUBMIT pads its ARG1. -/
def Obligations.PaddedLength : Prop :=
  ∀ (c : Config) (l : Nat), c.minFrame = 60 →
    (l < 60 → c.padded l = 60) ∧ (60 ≤ l → c.padded l = l) ∧
    ∀ s : State, s.cfg = c → s.arg1.toNat = l → s.txLen = c.padded l

/-- R181: the word that TX_SUBMIT publishes: its formula, its fields, every other bit 0, and the rule's example values
at the reference positions. -/
def Obligations.TxWord0 : Prop :=
  (∀ (c : Config) (w : Word) (p : Nat), c.layoutFits = true → p ≤ c.lenMax →
    c.txWord0 w p = ((w &&& c.eorM) ||| c.ownM ||| c.ftsM ||| c.ltsM ||| BitVec.ofNat 32 p) ∧
    c.own (c.txWord0 w p) = true ∧ c.eor (c.txWord0 w p) = c.eor w ∧ c.len (c.txWord0 w p) = p ∧
    (c.txWord0 w p).getLsbD c.layout.fts = true ∧ (c.txWord0 w p).getLsbD c.layout.lts = true ∧
    ∀ j, c.layout.lenBits ≤ j → j ≠ c.layout.own → j ≠ c.eorBit → j ≠ c.layout.fts → j ≠ c.layout.lts →
      (c.txWord0 w p).getLsbD j = false) ∧
  (∀ (c : Config) (w : Word), c.layout = Layout.reference →
    (c.profile ≠ .legacy → c.eor w = false → c.txWord0 w 60 = 0xB000003C#32) ∧
    (c.profile ≠ .legacy → c.eor w = true → c.txWord0 w 60 = 0xF000003C#32) ∧
    (c.profile = .legacy → c.eor w = false → c.txWord0 w 60 = 0xB000003C#32) ∧
    (c.profile = .legacy → c.eor w = true → c.txWord0 w 60 = 0xB000803C#32))

/-- R145, R200 (D4), R212, R230 (E4), R141 (I4): every later writer of a word 0 keeps its EOR; the completion of a
transmission clears OWN and keeps LEN, a delivery sets OWN and LEN := n, and a release clears OWN and no other bit. -/
def Obligations.Word0Writers : Prop :=
  ∀ (c : Config) (w x : Word) (n : Nat), c.layoutFits = true → n ≤ c.lenMax →
    (c.own (c.txDoneWord w x) = false ∧ c.eor (c.txDoneWord w x) = c.eor w ∧ c.len (c.txDoneWord w x) = c.len w) ∧
    (c.own (c.rxDeliverWord w n x) = true ∧ c.eor (c.rxDeliverWord w n x) = c.eor w ∧
      c.len (c.rxDeliverWord w n x) = n) ∧
    (∀ j, (c.releaseWord w).getLsbD j = (w.getLsbD j && decide (j ≠ c.layout.own))) ∧
    c.eor (c.markWord w) = true

/-- R182, R294, R295: the phases of TX_SUBMIT. T1: lifecycle, then length, then wrap, then the Invalidate of the slot and
the ownership test, which ends with NO_DESC and no byte of memory changed. T2 to T8: the buffer address, the buffer's
Flush, word 0, the descriptor's Flush, the doorbell, and the cursor's advance at the end. That T1's checks are in one step
with its first line, and its test with its last, is the model's reading (DEDUCED, log entry 10). -/
def Obligations.TxSubmitPhases : Prop :=
  (∀ s : State, s.phase = .first →
    (s.life ≠ .running → exec .txSubmit s = .next (s.endCommand .badState 0 0#32)) ∧
    (s.life = .running → s.cfg.lenMax < s.txLen → exec .txSubmit s = .next (s.endCommand .badArg 0 0#32)) ∧
    (s.life = .running → s.txLen ≤ s.cfg.lenMax → 2 ^ 32 < s.arg0.toNat + s.txLen →
      exec .txSubmit s = .next (s.endCommand .badArg 0 0#32)) ∧
    (s.life = .running → s.txLen ≤ s.cfg.lenMax → s.arg0.toNat + s.txLen ≤ 2 ^ 32 →
      exec .txSubmit s = exec .txSubmit { s with phase := .txT1 (s.cfg.syncLines s.txSlot s.cfg.descSize) })) ∧
  (∀ s : State, s.phase = .txT1 [] →
    (s.cfg.own (s.memRead s.txSlot) = true →
      exec .txSubmit s = .next ((s.memReadState s.txSlot).endCommand .noDesc 0 0#32)) ∧
    (s.cfg.own (s.memRead s.txSlot) = false →
      exec .txSubmit s = .next ((s.memReadState s.txSlot).atPhase .txSubmit (.txT2 (s.memRead s.txSlot)))) ∧
    (s.memReadState s.txSlot).mem = s.mem) ∧
  (∀ s : State,
    (∀ w, s.phase = .txT2 w → exec .txSubmit s =
      .next ((s.memWrite (s.txSlot + BitVec.ofNat 32 (4 * s.cfg.bufWord)) (s.cfg.toDma s.arg0)).atPhase .txSubmit
        (.txT3 w (s.cfg.syncLines s.arg0 s.txLen)))) ∧
    (∀ w, s.phase = .txT3 w [] → exec .txSubmit s = .next (s.atPhase .txSubmit (.txT4 w))) ∧
    (∀ w, s.phase = .txT4 w → exec .txSubmit s =
      .next ((s.memWrite s.txSlot (s.cfg.txWord0 w s.txLen)).atPhase .txSubmit
        (.txT5 (s.cfg.syncLines s.txSlot s.cfg.descSize)))) ∧
    (s.phase = .txT5 [] → exec .txSubmit s = .next (s.atPhase .txSubmit .txT6)) ∧
    (s.phase = .txT6 → exec .txSubmit s =
      .next ({ s with txKick := true, expired := false }.atPhase .txSubmit
        (.txT7 (s.cfg.syncLines s.txSlot s.cfg.descSize)))) ∧
    (s.phase = .txT8 → exec .txSubmit s =
      .next ({ s with txCur := (s.txCur + 1) % s.cfg.txCap }.endCommand .ok 0 0#32)))

/-- R300: both bounded waits. The flag is cleared by the phase that starts the wait, the condition is checked before the
timer at every iteration, and an unbounded reset wait never tests the flag. -/
def Obligations.BoundedWaits : Prop :=
  (∀ s : State, s.phase = .txT6 → ∃ t, exec .txSubmit s = .next t ∧ t.expired = false ∧
    t.phase = .txT7 (s.cfg.syncLines s.txSlot s.cfg.descSize)) ∧
  (∀ s : State, s.phase = .txT7 [] →
    (s.cfg.own (s.memRead s.txSlot) = false →
      exec .txSubmit s = .next ((s.memReadState s.txSlot).atPhase .txSubmit .txT8)) ∧
    (s.cfg.own (s.memRead s.txSlot) = true → s.expired = true →
      exec .txSubmit s = .next ((s.memReadState s.txSlot).endCommand .txTimeout 0 0#32)) ∧
    (s.cfg.own (s.memRead s.txSlot) = true → s.expired = false →
      exec .txSubmit s = .next ((s.memReadState s.txSlot).atPhase .txSubmit
        (.txT7 (s.cfg.syncLines s.txSlot s.cfg.descSize))))) ∧
  (∀ s : State, s.phase = .devS3 → ∃ t, exec .devStart s = .next t ∧ t.expired = false ∧ t.phase = .devS4) ∧
  (∀ s : State, s.phase = .devS4 →
    ((s.regRead .maccr).getLsbD 31 = false → exec .devStart s = .next (s.atPhase .devStart .devS5)) ∧
    ((s.regRead .maccr).getLsbD 31 = true → s.cfg.resetBounded = true → s.expired = true →
      exec .devStart s = .next ({ s with life := .error }.endCommand .resetTimeout 0 0#32)) ∧
    ((s.regRead .maccr).getLsbD 31 = true → ¬(s.cfg.resetBounded = true ∧ s.expired = true) →
      exec .devStart s = .next (s.atPhase .devStart .devS4)))

/-- R182, R183, R84: TX_SUBMIT with no other agent's step between its phases reaches the doorbell with the slot
published in memory: word 0 hardware-owned, the buffer's address beside it, every byte of the frame as a Flush leaves
it, and the slot's other words as they were. -/
def Obligations.TxPublishes : Prop :=
  ∀ s : State, s.cfg.launchOk = true → s.cfg.toDmaMap = [] → s.storeOk = true → s.phase = .first →
    s.life = .running → s.txCur < s.cfg.txCap → s.txLen ≤ s.cfg.lenMax → s.arg0.toNat + s.txLen ≤ 2 ^ 32 →
    s.cfg.own (s.ramWord s.txSlot) = false →
    (∀ l ∈ s.cfg.lines s.arg0.toNat s.txLen, l ∉ s.cfg.lines s.txSlot.toNat s.cfg.descSize) →
    ∃ n t, runAlone .txSubmit n s = .next t ∧ t.op = some .txSubmit ∧ t.phase = .txT6 ∧
      t.ramWord s.txSlot = s.cfg.txWord0 (s.ramWord s.txSlot) s.txLen ∧
      t.ramWord (bufWordOf s.cfg s.txSlot) = s.arg0 ∧
      (∀ k, k < s.cfg.descWords → k ≠ 0 → k ≠ s.cfg.bufWord →
        t.ramWord (descWordOf s.txSlot k) = s.ramWord (descWordOf s.txSlot k)) ∧
      (∀ k, k < s.txLen →
        t.mem.read (s.arg0 + BitVec.ofNat 32 k).toNat = s.flushedByte (s.arg0 + BitVec.ofNat 32 k)) ∧
      t.txKick = s.txKick ∧ t.txCur = s.txCur

/-- R86, R200: the TX DMA agent, its steps one after another in any byte order, puts exactly the LEN bytes at the
buffer's address onto the wire, then clears OWN, keeps EOR and LEN, and moves its pointer; it writes no byte of memory
but the slot's word 0 and reserved words. That one step moves one byte, and that an empty frame takes one step, is the
model's reading (DEDUCED, log entry 11), and so are the writes of reserved words with D4 (DEDUCED, log entry 9). -/
def Obligations.TxDmaSendsTheFrame : Prop :=
  ∀ (s : State) (draws : List (Nat × Word × List (Nat × Word))),
    s.cfg.layoutFits = true → s.storeOk = true → s.txEnabled = true → s.txd = .idle → s.txKick = true →
    s.cfg.own (s.dmaRead s.txHwptr) = true →
    draws.length = max (s.cfg.len (s.dmaRead s.txHwptr)) 1 + 3 →
    (runTxDma draws s).txd = .idle ∧ (runTxDma draws s).txKick = true ∧
    (runTxDma draws s).wireTx = s.wireTx ++
      [s.mem.readBytes (s.dmaRead (bufWordOf s.cfg s.txHwptr)) (s.cfg.len (s.dmaRead s.txHwptr))] ∧
    s.cfg.own ((runTxDma draws s).dmaRead s.txHwptr) = false ∧
    s.cfg.eor ((runTxDma draws s).dmaRead s.txHwptr) = s.cfg.eor (s.dmaRead s.txHwptr) ∧
    s.cfg.len ((runTxDma draws s).dmaRead s.txHwptr) = s.cfg.len (s.dmaRead s.txHwptr) ∧
    (runTxDma draws s).txHwptr =
      (if s.cfg.eor (s.dmaRead s.txHwptr) then s.mac.nptxrBadr else s.txHwptr + BitVec.ofNat 32 s.cfg.descSize) ∧
    (runTxDma draws s).cache = s.cache ∧
    (∀ b, (∀ k, k < s.cfg.descWords → k ≠ s.cfg.bufWord → ¬ inRange (descWordOf s.txHwptr k, 4) b) →
      ¬ inRange (s.txHwptr, 4) b → (runTxDma draws s).mem.read b = s.mem.read b)

/-- R200, R201, R230, R259: a disabled DMA agent does nothing, the TX DMA agent does nothing without a doorbell, a frame
offered to a software-owned slot or to a busy agent is lost, and neither agent steps while DEV_START is between the end
of the reset wait and its enable phase. That a turn of an agent that cannot step changes nothing is the model's choice
(DESIGN CHOICE, log entry 3). -/
def Obligations.DmaAgentsQuiet : Prop :=
  (∀ (s : State) (pick : Nat) (x : Word) (reserved : List (Nat × Word)),
    (s.txEnabled = false ∨ (s.txd = .idle ∧ s.txKick = false)) → txDmaTurn pick x reserved s = s) ∧
  (∀ (s : State) (f : Frame),
    (s.rxEnabled = false ∨ s.rxd ≠ .idle ∨ s.cfg.own (s.dmaRead s.rxHwptr) = true) → wireTurn f s = s) ∧
  (∀ (s : State) (pick : Nat), (s.rxEnabled = false ∨ s.rxd = .idle) → rxDmaTurn pick s = s) ∧
  (∀ s : State, s.sound = true →
    (s.phase = .devS5 ∨ (∃ p, s.phase = .devS6 p) ∨ (∃ p, s.phase = .devS7 p) ∨ s.phase = .devS8 ∨ s.phase = .devS9 ∨
      s.phase = .devS10) →
    (∀ pick x reserved, txDmaTurn pick x reserved s = s) ∧ (∀ f, wireTurn f s = s) ∧ (∀ pick, rxDmaTurn pick s = s))

/-- R76, R86, R168, R200, R230, R325: which bytes of memory a step of each agent but the software agent may change: the TX
DMA agent only word 0 and reserved words of its slot, and only after the frame was sent; the RX DMA agent only a byte of
the frame's range (whose offsets `State.dmaOk` bounds, StepKeepsSound), or word 0 after the whole frame was written; a cache write-back only bytes of the address's line, which
was dirty; the wire, the MAC agent, the timer and a cache fill or drop none. That the reserved words are written with D4,
after the frame, is the model's reading (DEDUCED, log entry 9; R104 gives no time). -/
def Obligations.AgentMemoryFrame : Prop :=
  (∀ (s : State) (pick : Nat) (x : Word) (reserved : List (Nat × Word)) (b : Nat),
    (txDmaTurn pick x reserved s).mem.read b ≠ s.mem.read b →
    (∃ w, s.txd = .sent w) ∧
      (inRange (s.txHwptr, 4) b ∨ ∃ k, s.cfg.reservedWord k = true ∧ inRange (descWordOf s.txHwptr k, 4) b)) ∧
  (∀ (s : State) (pick b : Nat), (rxDmaTurn pick s).mem.read b ≠ s.mem.read b →
    (∃ w f d todo k, s.rxd = .addressed w f d todo ∧ k ∈ todo ∧ (s.dmaOk = true → k < f.bytes.length) ∧
      b = (d + BitVec.ofNat 32 k).toNat) ∨
    (∃ w f, s.rxd = .written w f ∧ inRange (s.rxHwptr, 4) b)) ∧
  (∀ (s : State) (a : Word) (keep : Bool) (b : Nat), s.storeOk = true →
    (cacheWriteBackTurn a keep s).mem.read b ≠ s.mem.read b →
    s.cfg.coherent = false ∧ (∃ bytes, s.cache.get (s.cfg.lineOf a.toNat) = some ⟨bytes, true⟩) ∧
      inRange (s.cfg.toDma (BitVec.ofNat 32 (s.cfg.lineOf a.toNat)), s.cfg.line) b) ∧
  (∀ (s : State) (f : Frame) (a : Word) (regs : MacRegs) (p q : Word),
    (wireTurn f s).mem = s.mem ∧ (macTurn regs p q s).mem = s.mem ∧ (timerTurn s).mem = s.mem ∧
    (cacheFillTurn a s).mem = s.mem ∧ (cacheDropTurn a s).mem = s.mem)

/-! ## Reception -/

/-- R211, R212, R293, R295: the phases of RX_POLL: lifecycle, then the outstanding packet; ownership, then the error
flags; the buffer's Invalidate; the packet's record and result. And those of RX_RELEASE: lifecycle, then the outstanding
packet; OWN := 0 in word 0 and the slot's Flush; the cursor. That P1's checks, P2's read and L2's read-modify-write are
each in one step with the first line of what follows, and P1's test with its last line, is the model's reading (DEDUCED,
log entry 10). -/
def Obligations.RxPhases : Prop :=
  (∀ s : State, s.phase = .first →
    ((s.life ≠ .running ∨ s.rxOut = true) → exec .rxPoll s = .next (s.endCommand .badState 0 0#32)) ∧
    (s.life = .running → s.rxOut = false →
      exec .rxPoll s = exec .rxPoll { s with phase := .rxP1 (s.cfg.syncLines s.rxSlot s.cfg.descSize) })) ∧
  (∀ s : State, s.phase = .rxP1 [] →
    ((s.cfg.own (s.memRead s.rxSlot) = false ∨ s.cfg.rxBad (s.memRead s.rxSlot) = true) →
      exec .rxPoll s = .next ((s.memReadState s.rxSlot).endCommand .noPacket 0 0#32)) ∧
    (s.cfg.own (s.memRead s.rxSlot) = true → s.cfg.rxBad (s.memRead s.rxSlot) = false →
      exec .rxPoll s = .next ((s.memReadState s.rxSlot).atPhase .rxPoll (.rxP2 (s.memRead s.rxSlot))))) ∧
  (∀ (s : State) (w : Word), s.phase = .rxP2 w →
    exec .rxPoll s = exec .rxPoll { s.memReadState (s.rxSlot + BitVec.ofNat 32 (4 * s.cfg.bufWord)) with
      phase := .rxP2Lines (s.cfg.len w)
        (s.cfg.fromDma (s.memRead (s.rxSlot + BitVec.ofNat 32 (4 * s.cfg.bufWord))))
        (s.cfg.syncLines (s.cfg.fromDma (s.memRead (s.rxSlot + BitVec.ofNat 32 (4 * s.cfg.bufWord)))) (s.cfg.len w)) }) ∧
  (∀ (s : State) (n : Nat) (b : Word), s.phase = .rxP2Lines n b [] →
    exec .rxPoll s = .next (s.atPhase .rxPoll (.rxP3 n b))) ∧
  (∀ (s : State) (n : Nat) (b : Word), s.phase = .rxP3 n b →
    exec .rxPoll s = .next ({ s with rxOut := true, rxOutSlot := s.rxCur }.endCommand .ok n b)) ∧
  (∀ s : State, s.phase = .first →
    ((s.life ≠ .running ∨ s.rxOut = false) → exec .rxRelease s = .next (s.endCommand .badState 0 0#32)) ∧
    (s.life = .running → s.rxOut = true → exec .rxRelease s = .next (s.atPhase .rxRelease .rxL2))) ∧
  (∀ s : State, s.phase = .rxL2 →
    exec .rxRelease s = exec .rxRelease { (s.memReadState s.releaseSlot).memWrite s.releaseSlot
        (s.memRead s.releaseSlot &&& ~~~s.cfg.ownM) with
      phase := .rxL2Lines (s.cfg.syncLines s.releaseSlot s.cfg.descSize) }) ∧
  (∀ s : State, s.phase = .rxL2Lines [] → exec .rxRelease s = .next (s.atPhase .rxRelease .rxL3)) ∧
  (∀ s : State, s.phase = .rxL3 → exec .rxRelease s =
    .next ({ s with rxCur := (s.rxCur + 1) % s.cfg.rxCap, rxOut := false }.endCommand .ok 0 0#32))

/-- R211, R216, R34: RX_POLL with no other agent's step between its phases returns the packet of the slot at the cursor,
as memory has it, when the slot is software-owned without an error flag, and NO_PACKET otherwise; it moves no cursor and
changes no byte of memory on any path, so a slot with an error flag answers NO_PACKET again. -/
def Obligations.RxPollAlone : Prop :=
  ∀ s : State, s.cfg.launchOk = true → s.cfg.toDmaMap = [] → s.storeOk = true → s.phase = .first →
    s.life = .running → s.rxOut = false → s.rxCur < s.cfg.rxCap →
    ∃ n t, runAlone .rxPoll n s = .next t ∧ t.op = none ∧ t.mem = s.mem ∧ t.rxCur = s.rxCur ∧ t.txCur = s.txCur ∧
      (if s.cfg.own (s.ramWord s.rxSlot) = true ∧ s.cfg.rxBad (s.ramWord s.rxSlot) = false then
        t.res0 = resultWord .ok (s.cfg.len (s.ramWord s.rxSlot)) ∧
        t.res1 = s.cfg.fromDma (s.ramWord (bufWordOf s.cfg s.rxSlot)) ∧
        t.rxOut = true ∧ t.rxOutSlot = s.rxCur ∧
        ∀ l ∈ s.cfg.lines t.res1.toNat (s.cfg.len (s.ramWord s.rxSlot)), t.cache.get l = none
      else t.res0 = 0x03000000#32 ∧ t.res1 = 0#32 ∧ t.rxOut = false ∧ t.rxOutSlot = s.rxOutSlot)

/-- R212, R216: RX_RELEASE with no other agent's step between its phases gives the slot back to hardware in memory: OWN
cleared and no other bit of word 0 changed, the cursor advanced, no packet outstanding, and no byte outside the slot's
lines changed. -/
def Obligations.RxReleaseAlone : Prop :=
  ∀ s : State, s.cfg.launchOk = true → s.cfg.toDmaMap = [] → s.storeOk = true → s.phase = .first →
    s.life = .running → s.rxOut = true → s.rxOutSlot < s.cfg.rxCap →
    ∃ n t, runAlone .rxRelease n s = .next t ∧ t.op = none ∧ t.res0 = 0#32 ∧ t.res1 = 0#32 ∧
      t.ramWord s.releaseSlot = s.memRead s.releaseSlot &&& ~~~s.cfg.ownM ∧
      t.rxCur = (s.rxCur + 1) % s.cfg.rxCap ∧ t.rxOut = false ∧
      (∀ x : Word, s.cfg.lineOf x.toNat ∉ s.cfg.lines s.releaseSlot.toNat s.cfg.descSize →
        t.mem.read x.toNat = s.mem.read x.toNat)

/-- R86, R230: a frame offered to an idle RX DMA agent at a hardware-owned slot, and the agent's steps one after another
in any byte order: every byte of the frame is in memory at the buffer's address, word 0 is software-owned with LEN the
frame's length and EOR kept, the pointer moves, and no other byte of memory changes. That one step
moves one byte, and that an empty frame takes one step, is the model's reading (DEDUCED, log entry 11). -/
def Obligations.RxDmaDelivers : Prop :=
  ∀ (s : State) (f : Frame) (picks : List Nat),
    s.cfg.layoutFits = true → s.storeOk = true → s.cfg.rxBufSize ≤ s.cfg.lenMax → s.rxEnabled = true →
    s.rxd = .idle → f.bytes.length ≤ s.cfg.rxBufSize → s.cfg.own (s.dmaRead s.rxHwptr) = false →
    (∀ k, k < f.bytes.length →
      ¬ inRange (s.rxHwptr, 4) (s.dmaRead (bufWordOf s.cfg s.rxHwptr) + BitVec.ofNat 32 k).toNat) →
    picks.length = max f.bytes.length 1 + 2 →
    (runRxDma picks (wireTurn f s)).rxd = .idle ∧
    (∀ k, k < f.bytes.length →
      (runRxDma picks (wireTurn f s)).mem.read (s.dmaRead (bufWordOf s.cfg s.rxHwptr) + BitVec.ofNat 32 k).toNat =
        f.bytes.getD k 0#8) ∧
    s.cfg.own ((runRxDma picks (wireTurn f s)).dmaRead s.rxHwptr) = true ∧
    s.cfg.eor ((runRxDma picks (wireTurn f s)).dmaRead s.rxHwptr) = s.cfg.eor (s.dmaRead s.rxHwptr) ∧
    s.cfg.len ((runRxDma picks (wireTurn f s)).dmaRead s.rxHwptr) = f.bytes.length ∧
    (runRxDma picks (wireTurn f s)).rxHwptr =
      (if s.cfg.eor (s.dmaRead s.rxHwptr) then s.mac.rxrBadr else s.rxHwptr + BitVec.ofNat 32 s.cfg.descSize) ∧
    (runRxDma picks (wireTurn f s)).cache = s.cache ∧
    (∀ b, ¬ inRange (s.dmaRead (bufWordOf s.cfg s.rxHwptr), f.bytes.length) b → ¬ inRange (s.rxHwptr, 4) b →
      (runRxDma picks (wireTurn f s)).mem.read b = s.mem.read b)

/-! ## The link -/

/-- R240, R241: the three bits of the control word that the link logic owns, and that every other bit is preserved. -/
def Obligations.LinkWordTable : Prop :=
  ∀ (c : Config) (old : Word) (ls : LinkState),
    (c.linkWord old ls).getLsbD 19 = (ls.speed == .mbit100) ∧
    (c.linkWord old ls).getLsbD 9 = (c.gigOk && ls.speed == .mbit1000) ∧
    (c.linkWord old ls).getLsbD 8 = ls.full ∧
    ∀ j, j ≠ 19 → j ≠ 9 → j ≠ 8 → (c.linkWord old ls).getLsbD j = old.getLsbD j

/-- R242, R243: LINK_ADJUST checks the lifecycle, then the reserved bits of ARG0; a link that is down outside a
no-negotiation mode is NO_LINK and touches no register; otherwise one write of MACCR, whose value is RES1. -/
def Obligations.LinkAdjustPhases : Prop :=
  (∀ s : State, s.phase = .first →
    (s.life ≠ .running → exec .linkAdjust s = .next (s.endCommand .badState 0 0#32)) ∧
    (s.life = .running → s.arg0.extractLsb' 4 28 ≠ 0#28 →
      exec .linkAdjust s = .next (s.endCommand .badArg 0 0#32)) ∧
    (s.life = .running → s.arg0.extractLsb' 4 28 = 0#28 →
      exec .linkAdjust s = .next (s.atPhase .linkAdjust
        (.linkK2 ⟨[Speed.mbit10, .mbit100, .mbit1000, .other].getD (s.arg0.toNat % 4) .other, s.arg0.getLsbD 2,
          s.arg0.getLsbD 3⟩)))) ∧
  (∀ (s : State) (ls : LinkState), s.phase = .linkK2 ls →
    (ls.up = false → s.cfg.ifmode ∉ s.cfg.noNeg → exec .linkAdjust s = .next (s.endCommand .noLink 0 0#32)) ∧
    ((ls.up = true ∨ s.cfg.ifmode ∈ s.cfg.noNeg) →
      exec .linkAdjust s = .next ((s.regWrite .maccr (s.cfg.linkWord (s.regRead .maccr) ls)).endCommand .ok 0
        (s.cfg.linkWord (s.regRead .maccr) ls)) ∧
      (s.macRst = false → s.mac.maccr.getLsbD 31 = false →
        exec .linkAdjust s =
          .next ({ s with mac := { s.mac with maccr := s.cfg.linkWord s.mac.maccr ls } }.endCommand .ok 0
            (s.cfg.linkWord s.mac.maccr ls)))))

/-! ## The device lifecycle -/

/-- R9, R258: DEV_START checks the configuration before it touches any register, memory or cache. The rules' alignment of
16 is the parameter DESC_ALIGN of R8 and D47, with 16 its value (DEDUCED, log entry 30): the check is given for any
DESC_ALIGN, and in the rules' own words for 16. -/
def Obligations.DevStartConfigCheck : Prop :=
  ∀ s : State,
    (s.phase = .devS2 →
      (s.cfg.wellFormed = true → exec .devStart s = .next ({ s with life := .starting }.atPhase .devStart .devS3)) ∧
      (s.cfg.wellFormed = false → exec .devStart s = .next ({ s with life := .error }.endCommand .config 0 0#32))) ∧
    (s.cfg.wellFormed = true ↔
      (∃ k, k < 16 ∧ s.cfg.txCap = 2 ^ k) ∧ (∃ k, k < 16 ∧ s.cfg.rxCap = 2 ^ k) ∧
      s.cfg.descAlign ∣ s.cfg.descSize ∧ s.cfg.descSize = 4 * s.cfg.descWords ∧ s.cfg.bufWord < s.cfg.descWords ∧
      s.cfg.descAlign ∣ s.cfg.txBase.toNat ∧ s.cfg.descAlign ∣ s.cfg.rxBase.toNat ∧
      s.cfg.ifmode ∈ [0, 1, 2, 3, 4, 5, 6]) ∧
    (s.cfg.descAlign = 16 → (s.cfg.wellFormed = true ↔
      (∃ k, k < 16 ∧ s.cfg.txCap = 2 ^ k) ∧ (∃ k, k < 16 ∧ s.cfg.rxCap = 2 ^ k) ∧
      s.cfg.descSize % 16 = 0 ∧ s.cfg.descSize = 4 * s.cfg.descWords ∧ s.cfg.bufWord < s.cfg.descWords ∧
      s.cfg.txBase.toNat % 16 = 0 ∧ s.cfg.rxBase.toNat % 16 = 0 ∧ s.cfg.ifmode ∈ [0, 1, 2, 3, 4, 5, 6]))

/-- R112, R259: the register phases of DEV_START, S3 to S13, and that S6 and S7 are RING_INIT's phases I2 to I6. -/
def Obligations.DevStartPhases : Prop :=
  (∀ s : State, s.phase = .first → s.life ∈ [.stopped, .error] →
    exec .devStart s = .next (s.atPhase .devStart .devS2)) ∧
  (∀ s : State, s.phase = .devS3 → exec .devStart s =
    .next ({ s with
      mac := { s.mac with maccr := s.mac.maccr &&& 0x7FFFFFFF#32 }
      macRst := true
      expired := false }.atPhase .devStart .devS4)) ∧
  (∀ s : State, s.phase = .devS5 → exec .devStart s =
    .next ({ s with mac := { s.mac with macMadr := macHigh s.macAddr, macLadr := macLow s.macAddr } }.atPhase .devStart
      (.devS6 .i2))) ∧
  (∀ (s : State) (p : RingPhase), s.phase = .devS6 p → ∃ t,
    exec (.ringInit .tx) { s with phase := .ringInit p } = .next t ∧
    (∀ q, t.phase = .ringInit q → exec .devStart s = .next (t.atPhase .devStart (.devS6 q))) ∧
    (t.op = none →
      exec .devStart s = .next ({ t with res0 := s.res0, res1 := s.res1 }.atPhase .devStart (.devS7 .i2)))) ∧
  (∀ (s : State) (p : RingPhase), s.phase = .devS7 p → ∃ t,
    exec (.ringInit .rx) { s with phase := .ringInit p } = .next t ∧
    (∀ q, t.phase = .ringInit q → exec .devStart s = .next (t.atPhase .devStart (.devS7 q))) ∧
    (t.op = none →
      exec .devStart s = .next ({ t with res0 := s.res0, res1 := s.res1 }.atPhase .devStart .devS8))) ∧
  (∀ s : State, s.phase = .devS8 → exec .devStart s =
    .next ({ s with mac := { s.mac with ier := 0#32 } }.atPhase .devStart .devS9)) ∧
  (∀ s : State, s.phase = .devS9 → exec .devStart s =
    .next ({ s with
      mac := { s.mac with
        nptxrBadr := s.cfg.toDma s.cfg.txBase
        rxrBadr := s.cfg.toDma s.cfg.rxBase
        aptc := 0x00000001#32
        rbsr := BitVec.ofNat 32 s.cfg.rxBufSize &&& 0x3FFF#32
        dblac := (s.mac.dblac &&& 0xFFF00FFF#32) ||| (BitVec.ofNat 32 (s.cfg.descSize / 8) <<< 12) |||
          (BitVec.ofNat 32 (s.cfg.descSize / 8) <<< 16) }
      txHwptr := s.cfg.toDma s.cfg.txBase
      rxHwptr := s.cfg.toDma s.cfg.rxBase }.atPhase .devStart .devS10)) ∧
  (∀ s : State, s.phase = .devS10 →
    exec .devStart s = .next ((s.regWrite .maccr (s.regRead .maccr ||| 0xF#32 ||| s.cfg.startExtra)).atPhase .devStart
      .devS11) ∧
    (s.macRst = false → s.mac.maccr.getLsbD 31 = false → s.cfg.startExtra.getLsbD 31 = false → exec .devStart s =
      .next ({ s with mac := { s.mac with maccr := s.mac.maccr ||| 0xF#32 ||| s.cfg.startExtra } }.atPhase .devStart
        .devS11))) ∧
  (∀ s : State, s.phase = .devS11 →
    (s.draw.phy = .transport → exec .devStart s = .next ({ s with life := .error }.endCommand .transport 0 0#32)) ∧
    (∀ ls, s.draw.phy = .link ls → exec .devStart s = .next (s.atPhase .devStart (.devS12 ls)))) ∧
  (∀ (s : State) (ls : LinkState), s.phase = .devS12 ls →
    (ls.up = false → s.cfg.ifmode ∉ s.cfg.noNeg →
      exec .devStart s = .next ({ s with life := .error }.endCommand .noLink 0 0#32)) ∧
    ((ls.up = true ∨ s.cfg.ifmode ∈ s.cfg.noNeg) →
      exec .devStart s = .next ((s.regWrite .maccr (s.cfg.linkWord (s.regRead .maccr) ls)).atPhase .devStart .devS13) ∧
      (s.macRst = false → s.mac.maccr.getLsbD 31 = false →
        exec .devStart s =
          .next ({ s with mac := { s.mac with maccr := s.cfg.linkWord s.mac.maccr ls } }.atPhase .devStart .devS13)))) ∧
  (∀ s : State, s.phase = .devS13 → exec .devStart s = .next ({ s with life := .running }.endCommand .ok 0 0#32))

/-- R259, R260, R322: DEV_START past its reset wait, with no other agent's step between its phases and a link the PHY
reports usable, ends OK in Running with the state that R322 tables: both rings in memory, cursors, DMA pointers and
every register the block writes; the wire, the kick and every byte outside the two rings' lines are untouched. Where both
DMA agents are idle, as the reset left them (R325), every ring invariant of R33 holds there. -/
def Obligations.DevStartReachesRunning : Prop :=
  ∀ (s : State) (ls : LinkState), s.cfg.launchOk = true → s.cfg.toDmaMap = [] → s.storeOk = true → s.phase = .devS5 →
    s.macRst = false → s.mac.maccr &&& 0x8000000F#32 = 0#32 → s.cfg.startExtra.getLsbD 31 = false →
    s.draw.phy = .link ls → (ls.up = true ∨ s.cfg.ifmode ∈ s.cfg.noNeg) →
    ∃ n t, runAlone .devStart n s = .next t ∧ t.op = none ∧ t.busy = false ∧ t.life = .running ∧ t.res0 = 0#32 ∧
      t.res1 = 0#32 ∧ t.txCur = 0 ∧ t.rxCur = 0 ∧ t.rxOut = false ∧ t.macRst = false ∧
      (∀ r i k, i < s.cfg.cap r → k < s.cfg.descWords → t.ramWord (s.cfg.wordAddr r i k) = initWord s.cfg r i k) ∧
      (∀ r, ∀ l ∈ s.cfg.lines (s.cfg.base r).toNat (s.cfg.cap r * s.cfg.descSize), t.cache.get l = none) ∧
      (∀ x : Word, (∀ r, s.cfg.lineOf x.toNat ∉ s.cfg.lines (s.cfg.base r).toNat (s.cfg.cap r * s.cfg.descSize)) →
        t.mem.read x.toNat = s.mem.read x.toNat) ∧
      t.txHwptr = s.cfg.txBase ∧ t.rxHwptr = s.cfg.rxBase ∧ t.txKick = s.txKick ∧ t.txd = s.txd ∧
      t.wireTx = s.wireTx ∧
      t.mac = { s.mac with
        ier := 0#32
        macMadr := macHigh s.macAddr
        macLadr := macLow s.macAddr
        nptxrBadr := s.cfg.txBase
        rxrBadr := s.cfg.rxBase
        aptc := 0x00000001#32
        rbsr := BitVec.ofNat 32 s.cfg.rxBufSize &&& 0x3FFF#32
        dblac := s.cfg.dblacStart s.mac.dblac
        maccr := s.cfg.linkWord (s.mac.maccr ||| 0xF#32 ||| s.cfg.startExtra) ls } ∧
      (s.txd = .idle → s.rxd = .idle →
        t.started = true ∧ t.ringsMarked = true ∧ t.ringsFlushed = true ∧ t.txSlotsOk = true ∧ t.rxSlotsOk = true ∧
        t.txInStep = true ∧ t.txAgree = true ∧ t.rxAgree = true)

/-- R261: DEV_STOP: the phases, and the whole command with no other agent's step between them: the four enable bits (all
of MACCR under STOP_CLEARS_ALL) are cleared, a reset in progress is neither started nor ended, and nothing else but the
lifecycle state and the results changes. -/
def Obligations.DevStopResult : Prop :=
  (∀ s : State, s.phase = .first →
    (s.life ≠ .starting → exec .devStop s = .next (s.atPhase .devStop .stopX2)) ∧
    (s.life = .starting → exec .devStop s = .next (s.endCommand .badState 0 0#32))) ∧
  (∀ s : State, s.phase = .stopX2 → s.mac.maccr.getLsbD 31 = false → exec .devStop s =
    .next ({ s with mac := { s.mac with
      maccr := if s.cfg.stopClearsAll then 0#32 else s.mac.maccr &&& 0xFFFFFFF0#32 } }.atPhase .devStop .stopX3)) ∧
  (∀ s : State, s.phase = .stopX3 → exec .devStop s = .next ({ s with life := .stopped }.endCommand .ok 0 0#32)) ∧
  (∀ s : State, s.phase = .first → s.life ≠ .starting → s.mac.maccr.getLsbD 31 = false →
    runAlone .devStop 3 s = .next ({ s with
      mac := { s.mac with maccr := if s.cfg.stopClearsAll then 0#32 else s.mac.maccr &&& 0xFFFFFFF0#32 }
      life := .stopped }.endCommand .ok 0 0#32))

/-- R263: DEV_SET_MAC: the checks, the packing of the address into st.mac_addr and its two registers, and nothing
else. -/
def Obligations.DevSetMacResult : Prop :=
  (∀ s : State, s.phase = .first →
    (s.life = .starting → exec .devSetMac s = .next (s.endCommand .badState 0 0#32)) ∧
    (s.life ≠ .starting → s.arg0.extractLsb' 16 16 ≠ 0#16 →
      exec .devSetMac s = .next (s.endCommand .badArg 0 0#32)) ∧
    (s.life ≠ .starting → s.arg0.extractLsb' 16 16 = 0#16 →
      exec .devSetMac s = .next (s.atPhase .devSetMac .setMacA2))) ∧
  (∀ s : State, s.phase = .setMacA2 → exec .devSetMac s =
    .next ({ s with
      macAddr := s.arg0.extractLsb' 8 8 ++ s.arg0.extractLsb' 0 8 ++ s.arg1.extractLsb' 24 8 ++
        s.arg1.extractLsb' 16 8 ++ s.arg1.extractLsb' 8 8 ++ s.arg1.extractLsb' 0 8
      mac := { s.mac with macMadr := s.arg0, macLadr := s.arg1 } }.endCommand .ok 0 0#32)) ∧
  (∀ s : State, s.arg0.extractLsb' 16 16 = 0#16 →
    macHigh (macOfArgs s.arg0 s.arg1) = s.arg0 ∧ macLow (macOfArgs s.arg0 s.arg1) = s.arg1)

/-- R21, R255: every change of the lifecycle state in any step of any agent is one of the table's transitions, made by
the software agent inside DEV_START or DEV_STOP. -/
def Obligations.LifecycleTransitions : Prop :=
  ∀ s t : State, s.sound = true → step s = .next t → t.life ≠ s.life →
    s.nextTurn.isSoftware = true ∧
    ((s.op = some .devStart ∧ s.phase = .devS2 ∧ s.life ∈ [.stopped, .error] ∧ t.life = .starting ∧ t.busy = true) ∨
     (s.op = some .devStart ∧ s.phase = .devS13 ∧ s.life = .starting ∧ t.life = .running ∧ t.statusCode = 0x00#8) ∨
     (s.op = some .devStart ∧ s.life ≠ .running ∧ t.life = .error ∧ t.busy = false ∧
       t.statusCode ∈ [Status.config.code, Status.resetTimeout.code, Status.transport.code, Status.noLink.code]) ∨
     (s.op = some .devStop ∧ s.phase = .stopX3 ∧ s.life ≠ .starting ∧ t.life = .stopped ∧ t.statusCode = 0x00#8))

/-- R54, R325: the MAC agent completes a reset and does nothing outside one. Afterwards SW_RST and the four enable bits
read 0, the kick is gone, both DMA agents are idle, every other register bit and both pointers are what was drawn, and
nothing else has changed. -/
def Obligations.MacResetCompletes : Prop :=
  ∀ (s : State) (regs : MacRegs) (p q : Word),
    (s.macRst = false → macTurn regs p q s = s) ∧
    (s.macRst = true → macTurn regs p q s = { s with
      macRst := false
      mac := { regs with maccr := regs.maccr &&& 0x7FFFFFF0#32 }
      txKick := false
      txd := .idle
      rxd := .idle
      txHwptr := p
      rxHwptr := q }) ∧
    ((macTurn regs p q s).macRst = false ∧ (s.macRst = true → (macTurn regs p q s).txEnabled = false ∧
      (macTurn regs p q s).rxEnabled = false))

/-- R52, R301: the timer flag is set by the timer alone and only inside a bounded wait, and cleared only by the phase
that starts one. -/
def Obligations.TimerFlag : Prop :=
  (∀ s t : State, step s = .next t → s.expired = false → t.expired = true →
    s.nextTurn = .timer ∧ s.busy = true ∧
      ((∃ todo, s.phase = .txT7 todo) ∨ (s.phase = .devS4 ∧ s.cfg.resetBounded = true))) ∧
  (∀ s t : State, step s = .next t → s.expired = true → t.expired = false →
    s.nextTurn.isSoftware = true ∧
      ((s.op = some .txSubmit ∧ s.phase = .txT6) ∨ (s.op = some .devStart ∧ s.phase = .devS3))) ∧
  (∀ s : State, s.waiting = true → (timerTurn s).expired = true)

/-- R302: with a bounded reset wait, every command ends under every schedule of the agents that is fair to the software
agent and to the timer. Fairness is the model's predicate on schedules (DESIGN CHOICE, log entry 19). -/
def Obligations.EveryCommandEnds : Prop :=
  ∀ (sched : Nat → Turn) (s : State), FairSchedule sched (scheduledRun sched s) → s.sound = true →
    s.cfg.resetBounded = true → s.busy = true → ∃ n, (scheduledRun sched s n).busy = false

/-- R242, R342: MACCR is written by the MAC agent at the completion of a reset and by five phases of the software
agent, and by no other step of any agent. -/
def Obligations.ControlWordWriters : Prop :=
  ∀ s t : State, step s = .next t → (t.mac.maccr ≠ s.mac.maccr ∨ t.macRst ≠ s.macRst) →
    (s.nextTurn.isMac = true ∧ s.macRst = true) ∨
    (s.nextTurn.isSoftware = true ∧
      ((s.op = some .linkAdjust ∧ ∃ ls, s.phase = .linkK2 ls) ∨
       (s.op = some .devStart ∧ (s.phase = .devS3 ∨ s.phase = .devS10 ∨ ∃ ls, s.phase = .devS12 ls)) ∨
       (s.op = some .devStop ∧ s.phase = .stopX2)))
end

