-- ==== Sys2Proof/Laws/Cache.lean ====
section
/-! SUPPORT. The laws of the cache's list (R50): what a line is after it was put or dropped, and the canonical form. -/

namespace Sys2Proof.Machine

@[simp] theorem Cache.get_nil (a : Nat) : Cache.get [] a = none := rfl

theorem Cache.get_cons (k : Nat) (x : CacheLine) (rest : Cache) (a : Nat) :
    Cache.get ((k, x) :: rest) a = if k = a then some x else Cache.get rest a := rfl

/-- The line that was put is there. -/
@[simp] theorem Cache.get_put_same (c : Cache) (a : Nat) (l : CacheLine) : (c.put a l).get a = some l := by
  induction c with
  | nil => simp [Cache.put, Cache.get_cons]
  | cons e rest ih =>
    obtain ⟨k, x⟩ := e
    unfold Cache.put
    split
    · simp [Cache.get_cons]
    · split
      · simp [Cache.get_cons]
      · rw [Cache.get_cons, if_neg (by omega)]
        exact ih

/-- Every other line is as it was. -/
theorem Cache.get_put_other (c : Cache) (a b : Nat) (l : CacheLine) (h : b ≠ a) : (c.put a l).get b = c.get b := by
  induction c with
  | nil => simp [Cache.put, Cache.get_cons, Ne.symm h]
  | cons e rest ih =>
    obtain ⟨k, x⟩ := e
    unfold Cache.put
    split
    · rw [Cache.get_cons, if_neg (Ne.symm h)]
    · split
      · subst_vars
        simp [Cache.get_cons, Ne.symm h]
      · simp [Cache.get_cons, ih]

/-- A dropped line is Invalid. -/
@[simp] theorem Cache.get_drop_same (c : Cache) (a : Nat) : (c.drop a).get a = none := by
  induction c with
  | nil => rfl
  | cons e rest ih =>
    obtain ⟨k, x⟩ := e
    unfold Cache.drop
    split
    · exact ih
    · rename_i h
      rw [Cache.get_cons, if_neg h]
      exact ih

/-- Dropping a line leaves every other line alone. -/
theorem Cache.get_drop_other (c : Cache) (a b : Nat) (h : b ≠ a) : (c.drop a).get b = c.get b := by
  induction c with
  | nil => rfl
  | cons e rest ih =>
    obtain ⟨k, x⟩ := e
    unfold Cache.drop
    split
    · rename_i hk
      rw [Cache.get_cons, if_neg (by omega)]
      exact ih
    · simp [Cache.get_cons, ih]

@[simp] theorem Cache.drop_nil (a : Nat) : Cache.drop [] a = [] := rfl

/-! ## The canonical form -/

theorem Cache.wfFrom_mono (line : Nat) (c : Cache) (lo lo' : Nat) (h : lo' ≤ lo) (hc : Cache.wfFrom line lo c = true) :
    Cache.wfFrom line lo' c = true := by
  cases c with
  | nil => rfl
  | cons e rest =>
    obtain ⟨k, x⟩ := e
    simp only [Cache.wfFrom, Bool.and_eq_true, decide_eq_true_eq] at hc ⊢
    exact ⟨⟨⟨⟨by omega, hc.1.1.1.2⟩, hc.1.1.2⟩, hc.1.2⟩, hc.2⟩

theorem Cache.wfFrom_put (line : Nat) (c : Cache) (lo a : Nat) (l : CacheLine) (hlo : lo ≤ a) (hb : a < 2 ^ 32) (ha : a % line = 0)
    (hl : l.bytes.length = line) (hc : Cache.wfFrom line lo c = true) : Cache.wfFrom line lo (c.put a l) = true := by
  induction c generalizing lo with
  | nil => simpa [Cache.put, Cache.wfFrom, hlo, ha, hl] using hb
  | cons e rest ih =>
    obtain ⟨k, x⟩ := e
    have hc' := hc
    simp only [Cache.wfFrom, Bool.and_eq_true, decide_eq_true_eq] at hc
    unfold Cache.put
    split
    · simp only [Cache.wfFrom, Bool.and_eq_true, decide_eq_true_eq]
      exact ⟨⟨⟨⟨hlo, hb⟩, ha⟩, hl⟩, ⟨⟨⟨⟨by omega, hc.1.1.1.2⟩, hc.1.1.2⟩, hc.1.2⟩, hc.2⟩⟩
    · split
      · simp only [Cache.wfFrom, Bool.and_eq_true, decide_eq_true_eq]
        refine ⟨⟨⟨⟨hlo, hb⟩, ha⟩, hl⟩, ?_⟩
        have : a = k := by assumption
        rw [this]
        exact hc.2
      · simp only [Cache.wfFrom, Bool.and_eq_true, decide_eq_true_eq]
        exact ⟨hc.1, ih (k + 1) (by omega) hc.2⟩

theorem Cache.wfFrom_drop (line : Nat) (c : Cache) (lo a : Nat) (hc : Cache.wfFrom line lo c = true) :
    Cache.wfFrom line lo (c.drop a) = true := by
  induction c generalizing lo with
  | nil => rfl
  | cons e rest ih =>
    obtain ⟨k, x⟩ := e
    simp only [Cache.wfFrom, Bool.and_eq_true, decide_eq_true_eq] at hc
    unfold Cache.drop
    split
    · exact Cache.wfFrom_mono line _ (k + 1) lo (by omega) (ih (k + 1) hc.2)
    · simp only [Cache.wfFrom, Bool.and_eq_true, decide_eq_true_eq]
      exact ⟨hc.1, ih (k + 1) hc.2⟩

/-- Making a line of the right length Valid keeps the canonical form. -/
theorem Cache.wf_put (c : Config) (x : Cache) (a : Nat) (l : CacheLine) (hb : a < 2 ^ 32) (ha : a % c.line = 0)
    (hl : l.bytes.length = c.line) (hx : x.wf c = true) : (x.put a l).wf c = true :=
  Cache.wfFrom_put c.line x 0 a l (Nat.zero_le a) hb ha hl hx

/-- Making a line Invalid keeps the canonical form. -/
theorem Cache.wf_drop (c : Config) (x : Cache) (a : Nat) (hx : x.wf c = true) : (x.drop a).wf c = true :=
  Cache.wfFrom_drop c.line x 0 a hx

theorem Cache.length_of_wfFrom (line : Nat) (c : Cache) (lo a : Nat) (l : CacheLine)
    (hc : Cache.wfFrom line lo c = true) (h : c.get a = some l) : l.bytes.length = line := by
  induction c generalizing lo with
  | nil => simp at h
  | cons e rest ih =>
    obtain ⟨k, x⟩ := e
    simp only [Cache.wfFrom, Bool.and_eq_true, decide_eq_true_eq] at hc
    rw [Cache.get_cons] at h
    split at h
    · cases h
      exact hc.1.2
    · exact ih (k + 1) hc.2 h

/-- A valid line has LINE bytes. -/
theorem Cache.length_of_wf (c : Config) (x : Cache) (a : Nat) (l : CacheLine) (hx : x.wf c = true)
    (h : x.get a = some l) : l.bytes.length = c.line :=
  Cache.length_of_wfFrom c.line x 0 a l hx h

/-! ## Bytes inside a line -/

@[simp] theorem setBytes_length (bs : List Byte) (off : Nat) (v : List Byte) : (setBytes bs off v).length = bs.length := by
  induction v generalizing bs off with
  | nil => rfl
  | cons b rest ih => simp [setBytes, ih]

/-- A byte outside the range written is as it was. -/
theorem setBytes_getD_other (bs : List Byte) (off : Nat) (v : List Byte) (k : Nat)
    (h : k < off ∨ off + v.length ≤ k) : (setBytes bs off v).getD k 0#8 = bs.getD k 0#8 := by
  induction v generalizing bs off with
  | nil => rfl
  | cons b rest ih =>
    rw [setBytes, ih]
    · simp only [List.getD, List.length_cons] at h ⊢
      rw [List.getElem?_set_ne (by omega)]
    · simp only [List.length_cons] at h
      omega

/-- A byte inside the range written is the new one. -/
theorem setBytes_getD_same (bs : List Byte) (off : Nat) (v : List Byte) (k : Nat) (hk : k < v.length)
    (h : off + v.length ≤ bs.length) : (setBytes bs off v).getD (off + k) 0#8 = v.getD k 0#8 := by
  induction v generalizing bs off k with
  | nil => simp at hk
  | cons b rest ih =>
    simp only [List.length_cons] at h hk
    cases k with
    | zero =>
      rw [setBytes, setBytes_getD_other _ _ _ _ (by omega)]
      simp only [List.getD, Nat.add_zero]
      rw [List.getElem?_set_self (by omega)]
      rfl
    | succ k =>
      rw [setBytes, show off + (k + 1) = off + 1 + k by omega, ih (bs.set off b) (off + 1) k (by omega) (by simpa using (by omega))]
      rfl

end Sys2Proof.Machine
end

