-- ==== Sys2Proof/Laws/Memory.lean ====
section
/-! SUPPORT. The laws of memory (R51, R73): a read after a write, a write leaves every other byte alone, and every memory
operation keeps the canonical form. -/

namespace Sys2Proof.Machine

/-! ## One byte -/

@[simp] theorem Memory.read_nil (a : Nat) : Memory.read [] a = 0#8 := rfl

theorem Memory.read_cons (k : Nat) (v : Byte) (rest : Memory) (a : Nat) :
    Memory.read ((k, v) :: rest) a = if k = a then v else Memory.read rest a := rfl

/-- A write leaves every other address alone. -/
theorem Memory.read_write_other (m : Memory) (a b : Nat) (v : Byte) (h : b ≠ a) :
    (m.write a v).read b = m.read b := by
  induction m with
  | nil =>
    unfold Memory.write
    split <;> simp [Memory.read_cons, Ne.symm h]
  | cons e rest ih =>
    obtain ⟨k, w⟩ := e
    unfold Memory.write
    split
    · split <;> simp [Memory.read_cons, Ne.symm h]
    · split
      · subst_vars
        split <;> simp [Memory.read_cons, Ne.symm h]
      · simp [Memory.read_cons, ih]

theorem Memory.read_of_wfFrom_lt (m : Memory) (lo a : Nat) (hm : Memory.wfFrom lo m = true) (h : a < lo) :
    m.read a = 0#8 := by
  induction m generalizing lo with
  | nil => rfl
  | cons e rest ih =>
    obtain ⟨k, w⟩ := e
    simp only [Memory.wfFrom, Bool.and_eq_true, decide_eq_true_eq] at hm
    rw [Memory.read_cons, if_neg (by omega)]
    exact ih (k + 1) hm.2 (by omega)

/-- A read after a write to the same address gives the value written. -/
theorem Memory.read_write_same (m : Memory) (lo a : Nat) (v : Byte) (hm : Memory.wfFrom lo m = true) :
    (m.write a v).read a = v := by
  induction m generalizing lo with
  | nil =>
    unfold Memory.write
    split <;> simp_all [Memory.read_cons]
  | cons e rest ih =>
    obtain ⟨k, w⟩ := e
    have hm' := hm
    simp only [Memory.wfFrom, Bool.and_eq_true, decide_eq_true_eq] at hm
    unfold Memory.write
    split
    · rename_i hlt
      split
      · rw [Memory.read_cons, if_neg (by omega), Memory.read_of_wfFrom_lt rest (k + 1) a hm.2 (by omega)]
        simp_all
      · simp [Memory.read_cons]
    · split
      · rename_i hk
        split
        · rw [Memory.read_of_wfFrom_lt rest (k + 1) a hm.2 (by omega)]
          simp_all
        · simp [Memory.read_cons]
      · rw [Memory.read_cons, if_neg (by omega)]
        exact ih (k + 1) hm.2

theorem Memory.wfFrom_mono (m : Memory) (lo lo' : Nat) (h : lo' ≤ lo) (hm : Memory.wfFrom lo m = true) :
    Memory.wfFrom lo' m = true := by
  cases m with
  | nil => rfl
  | cons e rest =>
    obtain ⟨k, w⟩ := e
    simp only [Memory.wfFrom, Bool.and_eq_true, decide_eq_true_eq] at hm ⊢
    exact ⟨⟨⟨by omega, hm.1.1.2⟩, hm.1.2⟩, hm.2⟩

theorem Memory.wfFrom_write (m : Memory) (lo a : Nat) (v : Byte) (hlo : lo ≤ a) (ha : a < 2 ^ 32)
    (hm : Memory.wfFrom lo m = true) : Memory.wfFrom lo (m.write a v) = true := by
  induction m generalizing lo with
  | nil =>
    unfold Memory.write
    split <;> simp_all [Memory.wfFrom]
  | cons e rest ih =>
    obtain ⟨k, w⟩ := e
    have hm' := hm
    simp only [Memory.wfFrom, Bool.and_eq_true, decide_eq_true_eq] at hm
    unfold Memory.write
    split
    · split
      · exact hm'
      · simp only [Memory.wfFrom, Bool.and_eq_true, decide_eq_true_eq]
        exact ⟨⟨⟨hlo, ha⟩, by simp_all⟩, ⟨⟨⟨by omega, hm.1.1.2⟩, hm.1.2⟩, hm.2⟩⟩
    · split
      · split
        · exact Memory.wfFrom_mono rest (k + 1) lo (by omega) hm.2
        · simp only [Memory.wfFrom, Bool.and_eq_true, decide_eq_true_eq]
          refine ⟨⟨⟨hlo, ha⟩, by simp_all⟩, ?_⟩
          have : a = k := by assumption
          rw [this]
          exact hm.2
      · simp only [Memory.wfFrom, Bool.and_eq_true, decide_eq_true_eq]
        exact ⟨hm.1, ih (k + 1) (by omega) hm.2⟩

/-- Storing a byte keeps the canonical form. -/
theorem Memory.wf_write (m : Memory) (a : Nat) (v : Byte) (ha : a < 2 ^ 32) (hm : m.wf = true) :
    (m.write a v).wf = true :=
  Memory.wfFrom_write m 0 a v (Nat.zero_le a) ha hm

theorem Memory.wf_write_word (m : Memory) (a : Word) (v : Byte) (hm : m.wf = true) :
    (m.write a.toNat v).wf = true :=
  Memory.wf_write m a.toNat v a.isLt hm

theorem Memory.read_write_word (m : Memory) (a : Word) (v : Byte) (hm : m.wf = true) :
    (m.write a.toNat v).read a.toNat = v :=
  Memory.read_write_same m 0 a.toNat v hm

/-! ## Byte strings -/

@[simp] theorem Memory.readBytes_length (m : Memory) (a : Word) (n : Nat) : (m.readBytes a n).length = n := by
  induction n generalizing a with
  | zero => rfl
  | succ n ih => simp [Memory.readBytes, ih]

/-- Byte `k` of a byte string read from memory. -/
theorem Memory.readBytes_getElem? (m : Memory) (a : Word) (n k : Nat) (hk : k < n) :
    (m.readBytes a n)[k]? = some (m.read (a + BitVec.ofNat 32 k).toNat) := by
  induction n generalizing a k with
  | zero => omega
  | succ n ih =>
    cases k with
    | zero => simp [Memory.readBytes]
    | succ k =>
      have h := ih (a + 1#32) k (by omega)
      have e : a + 1#32 + BitVec.ofNat 32 k = a + BitVec.ofNat 32 (k + 1) := by
        rw [BitVec.add_assoc, Nat.add_comm k 1, BitVec.ofNat_add]
      rw [e] at h
      simpa [Memory.readBytes] using h

/-- A byte string lands on no address outside its own range. -/
theorem Memory.read_writeBytes_other (m : Memory) (a : Word) (bs : List Byte) (b : Nat)
    (h : ∀ k, k < bs.length → b ≠ (a + BitVec.ofNat 32 k).toNat) : (m.writeBytes a bs).read b = m.read b := by
  induction bs generalizing m a with
  | nil => rfl
  | cons x rest ih =>
    rw [Memory.writeBytes, ih]
    · exact Memory.read_write_other m a.toNat b x (by simpa using h 0 (by simp))
    · intro k hk
      have e : a + 1#32 + BitVec.ofNat 32 k = a + BitVec.ofNat 32 (k + 1) := by
        rw [BitVec.add_assoc, Nat.add_comm k 1, BitVec.ofNat_add]
      rw [e]
      exact h (k + 1) (by simpa using hk)

/-- Storing a byte string keeps the canonical form. -/
theorem Memory.wf_writeBytes (m : Memory) (a : Word) (bs : List Byte) (hm : m.wf = true) :
    (m.writeBytes a bs).wf = true := by
  induction bs generalizing m a with
  | nil => exact hm
  | cons x rest ih => exact ih _ _ (Memory.wf_write_word m a x hm)

/-- Byte `k` of a byte string no longer than the address space, after it has been stored. -/
theorem Memory.read_writeBytes_same (m : Memory) (a : Word) (bs : List Byte) (k : Nat) (hm : m.wf = true)
    (hk : k < bs.length) (hl : bs.length ≤ 2 ^ 32) :
    (m.writeBytes a bs).read (a + BitVec.ofNat 32 k).toNat = bs.getD k 0#8 := by
  induction bs generalizing m a k with
  | nil => simp at hk
  | cons x rest ih =>
    cases k with
    | zero =>
      rw [Memory.writeBytes, Memory.read_writeBytes_other]
      · simpa using Memory.read_write_word m a x hm
      · intro k hk' e
        simp only [List.length_cons] at hl hk
        have := congrArg BitVec.toNat (BitVec.toNat_inj.mp e)
        simp only [BitVec.toNat_add, BitVec.toNat_ofNat] at this
        have ha := a.isLt
        omega
    | succ k =>
      have e : a + 1#32 + BitVec.ofNat 32 k = a + BitVec.ofNat 32 (k + 1) := by
        rw [BitVec.add_assoc, Nat.add_comm k 1, BitVec.ofNat_add]
      rw [Memory.writeBytes, ← e]
      simpa using ih (m.write a.toNat x) (a + 1#32) k (Memory.wf_write_word m a x hm) (by simpa using hk)
        (by simp only [List.length_cons] at hl; omega)

/-! ## Words -/

@[simp] theorem wordBytes_length (e : Endian) (v : Word) : (wordBytes e v).length = 4 := by cases e <;> rfl

/-- The bytes of a word give the word back (R73). -/
@[simp] theorem bytesWord_wordBytes (e : Endian) (v : Word) : bytesWord e (wordBytes e v) = v := by
  cases e <;>
  · simp only [bytesWord, wordBytes, List.getD_cons_zero, List.getD_cons_succ]
    apply BitVec.eq_of_getLsbD_eq
    intro i hi
    simp only [BitVec.getLsbD_append, BitVec.getLsbD_extractLsb']
    by_cases h1 : i < 8
    · simp [h1]
    · by_cases h2 : i < 16
      · simp [h1, show i - 8 < 8 by omega, show 8 + (i - 8) = i by omega]
      · by_cases h3 : i < 24
        · simp [h1, show ¬ i - 8 < 8 by omega, show i - 8 - 8 < 8 by omega, show 16 + (i - 8 - 8) = i by omega]
        · simp [h1, show ¬ i - 8 < 8 by omega, show ¬ i - 8 - 8 < 8 by omega, show i - 8 - 8 - 8 < 8 by omega,
            show 24 + (i - 8 - 8 - 8) = i by omega]

/-- A word write keeps the canonical form. -/
theorem Memory.wf_writeWord (m : Memory) (e : Endian) (d v : Word) (hm : m.wf = true) : (m.writeWord e d v).wf = true :=
  Memory.wf_writeBytes m d _ hm

/-- A word write leaves every byte outside its four alone. -/
theorem Memory.read_writeWord_other (m : Memory) (e : Endian) (d v : Word) (b : Nat)
    (h : ∀ k, k < 4 → b ≠ (d + BitVec.ofNat 32 k).toNat) : (m.writeWord e d v).read b = m.read b :=
  Memory.read_writeBytes_other m d _ b (by simpa using h)

theorem Memory.readBytes_four (m : Memory) (d : Word) :
    m.readBytes d 4 = [m.read d.toNat, m.read (d + 1#32).toNat, m.read (d + 2#32).toNat, m.read (d + 3#32).toNat] := by
  simp only [Memory.readBytes, BitVec.add_assoc]
  rfl

/-- A word read after a word write to the same address gives the word written (R73). -/
theorem Memory.readWord_writeWord (m : Memory) (e : Endian) (d v : Word) (hm : m.wf = true) :
    (m.writeWord e d v).readWord e d = v := by
  have h : (m.writeWord e d v).readBytes d 4 = wordBytes e v := by
    apply List.ext_getElem?
    intro k
    by_cases hk : k < 4
    · rw [Memory.readBytes_getElem? _ _ _ _ hk, Memory.writeWord,
        Memory.read_writeBytes_same m d _ k hm (by simpa using hk) (by simp)]
      have : k < (wordBytes e v).length := by simpa using hk
      simp [List.getD, List.getElem?_eq_getElem this]
    · rw [List.getElem?_eq_none (by simp; omega), List.getElem?_eq_none (by simp; omega)]
  rw [Memory.readWord, h, bytesWord_wordBytes]

/-- A word read does not see bytes stored outside its four. -/
theorem Memory.readWord_congr (m m' : Memory) (e : Endian) (d : Word)
    (h : ∀ k, k < 4 → m.read (d + BitVec.ofNat 32 k).toNat = m'.read (d + BitVec.ofNat 32 k).toNat) :
    m.readWord e d = m'.readWord e d := by
  simp only [Memory.readWord, Memory.readBytes_four]
  have h0 := h 0 (by omega)
  have h1 := h 1 (by omega)
  have h2 := h 2 (by omega)
  have h3 := h 3 (by omega)
  simp only [BitVec.add_zero] at h0
  simp only [h0, h1, h2, h3]

end Sys2Proof.Machine
end

