-- ==== Sys2Proof/Laws/State.lean ====
section
/-! SUPPORT. One lemma per field per update of the state: what each named update leaves alone, and what it sets. True by
`rfl`, so that no later proof unfolds a record update. -/

namespace Sys2Proof.Machine

variable (s : State)

/-! ## Another memory and cache -/

@[simp] theorem State.withStore_cfg (x : Store) : (s.withStore x).cfg = s.cfg := rfl
@[simp] theorem State.withStore_life (x : Store) : (s.withStore x).life = s.life := rfl
@[simp] theorem State.withStore_cmd (x : Store) : (s.withStore x).cmd = s.cmd := rfl
@[simp] theorem State.withStore_arg0 (x : Store) : (s.withStore x).arg0 = s.arg0 := rfl
@[simp] theorem State.withStore_arg1 (x : Store) : (s.withStore x).arg1 = s.arg1 := rfl
@[simp] theorem State.withStore_res0 (x : Store) : (s.withStore x).res0 = s.res0 := rfl
@[simp] theorem State.withStore_res1 (x : Store) : (s.withStore x).res1 = s.res1 := rfl
@[simp] theorem State.withStore_busy (x : Store) : (s.withStore x).busy = s.busy := rfl
@[simp] theorem State.withStore_op (x : Store) : (s.withStore x).op = s.op := rfl
@[simp] theorem State.withStore_phase (x : Store) : (s.withStore x).phase = s.phase := rfl
@[simp] theorem State.withStore_txCur (x : Store) : (s.withStore x).txCur = s.txCur := rfl
@[simp] theorem State.withStore_rxCur (x : Store) : (s.withStore x).rxCur = s.rxCur := rfl
@[simp] theorem State.withStore_rxOut (x : Store) : (s.withStore x).rxOut = s.rxOut := rfl
@[simp] theorem State.withStore_rxOutSlot (x : Store) : (s.withStore x).rxOutSlot = s.rxOutSlot := rfl
@[simp] theorem State.withStore_txHwptr (x : Store) : (s.withStore x).txHwptr = s.txHwptr := rfl
@[simp] theorem State.withStore_rxHwptr (x : Store) : (s.withStore x).rxHwptr = s.rxHwptr := rfl
@[simp] theorem State.withStore_txKick (x : Store) : (s.withStore x).txKick = s.txKick := rfl
@[simp] theorem State.withStore_txd (x : Store) : (s.withStore x).txd = s.txd := rfl
@[simp] theorem State.withStore_rxd (x : Store) : (s.withStore x).rxd = s.rxd := rfl
@[simp] theorem State.withStore_macAddr (x : Store) : (s.withStore x).macAddr = s.macAddr := rfl
@[simp] theorem State.withStore_mac (x : Store) : (s.withStore x).mac = s.mac := rfl
@[simp] theorem State.withStore_macRst (x : Store) : (s.withStore x).macRst = s.macRst := rfl
@[simp] theorem State.withStore_mem (x : Store) : (s.withStore x).mem = x.mem := rfl
@[simp] theorem State.withStore_cache (x : Store) : (s.withStore x).cache = x.cache := rfl
@[simp] theorem State.withStore_expired (x : Store) : (s.withStore x).expired = s.expired := rfl
@[simp] theorem State.withStore_wireTx (x : Store) : (s.withStore x).wireTx = s.wireTx := rfl
@[simp] theorem State.withStore_agenda (x : Store) : (s.withStore x).agenda = s.agenda := rfl
@[simp] theorem State.withStore_requests (x : Store) : (s.withStore x).requests = s.requests := rfl
@[simp] theorem State.withStore_ticks (x : Store) : (s.withStore x).ticks = s.ticks := rfl
@[simp] theorem State.withStore_draw (x : Store) : (s.withStore x).draw = s.draw := rfl

/-! ## `MemRead32` -/

@[simp] theorem State.memReadState_cfg (a : Word) : (s.memReadState a).cfg = s.cfg := rfl
@[simp] theorem State.memReadState_life (a : Word) : (s.memReadState a).life = s.life := rfl
@[simp] theorem State.memReadState_cmd (a : Word) : (s.memReadState a).cmd = s.cmd := rfl
@[simp] theorem State.memReadState_arg0 (a : Word) : (s.memReadState a).arg0 = s.arg0 := rfl
@[simp] theorem State.memReadState_arg1 (a : Word) : (s.memReadState a).arg1 = s.arg1 := rfl
@[simp] theorem State.memReadState_res0 (a : Word) : (s.memReadState a).res0 = s.res0 := rfl
@[simp] theorem State.memReadState_res1 (a : Word) : (s.memReadState a).res1 = s.res1 := rfl
@[simp] theorem State.memReadState_busy (a : Word) : (s.memReadState a).busy = s.busy := rfl
@[simp] theorem State.memReadState_op (a : Word) : (s.memReadState a).op = s.op := rfl
@[simp] theorem State.memReadState_phase (a : Word) : (s.memReadState a).phase = s.phase := rfl
@[simp] theorem State.memReadState_txCur (a : Word) : (s.memReadState a).txCur = s.txCur := rfl
@[simp] theorem State.memReadState_rxCur (a : Word) : (s.memReadState a).rxCur = s.rxCur := rfl
@[simp] theorem State.memReadState_rxOut (a : Word) : (s.memReadState a).rxOut = s.rxOut := rfl
@[simp] theorem State.memReadState_rxOutSlot (a : Word) : (s.memReadState a).rxOutSlot = s.rxOutSlot := rfl
@[simp] theorem State.memReadState_txHwptr (a : Word) : (s.memReadState a).txHwptr = s.txHwptr := rfl
@[simp] theorem State.memReadState_rxHwptr (a : Word) : (s.memReadState a).rxHwptr = s.rxHwptr := rfl
@[simp] theorem State.memReadState_txKick (a : Word) : (s.memReadState a).txKick = s.txKick := rfl
@[simp] theorem State.memReadState_txd (a : Word) : (s.memReadState a).txd = s.txd := rfl
@[simp] theorem State.memReadState_rxd (a : Word) : (s.memReadState a).rxd = s.rxd := rfl
@[simp] theorem State.memReadState_macAddr (a : Word) : (s.memReadState a).macAddr = s.macAddr := rfl
@[simp] theorem State.memReadState_mac (a : Word) : (s.memReadState a).mac = s.mac := rfl
@[simp] theorem State.memReadState_macRst (a : Word) : (s.memReadState a).macRst = s.macRst := rfl
@[simp] theorem State.memReadState_mem (a : Word) : (s.memReadState a).mem = (s.store.afterRead s.cfg a).mem := rfl
@[simp] theorem State.memReadState_cache (a : Word) : (s.memReadState a).cache = (s.store.afterRead s.cfg a).cache := rfl
@[simp] theorem State.memReadState_expired (a : Word) : (s.memReadState a).expired = s.expired := rfl
@[simp] theorem State.memReadState_wireTx (a : Word) : (s.memReadState a).wireTx = s.wireTx := rfl
@[simp] theorem State.memReadState_agenda (a : Word) : (s.memReadState a).agenda = s.agenda := rfl
@[simp] theorem State.memReadState_requests (a : Word) : (s.memReadState a).requests = s.requests := rfl
@[simp] theorem State.memReadState_ticks (a : Word) : (s.memReadState a).ticks = s.ticks := rfl
@[simp] theorem State.memReadState_draw (a : Word) : (s.memReadState a).draw = s.draw := rfl

/-! ## `MemWrite32` -/

@[simp] theorem State.memWrite_cfg (a v : Word) : (s.memWrite a v).cfg = s.cfg := rfl
@[simp] theorem State.memWrite_life (a v : Word) : (s.memWrite a v).life = s.life := rfl
@[simp] theorem State.memWrite_cmd (a v : Word) : (s.memWrite a v).cmd = s.cmd := rfl
@[simp] theorem State.memWrite_arg0 (a v : Word) : (s.memWrite a v).arg0 = s.arg0 := rfl
@[simp] theorem State.memWrite_arg1 (a v : Word) : (s.memWrite a v).arg1 = s.arg1 := rfl
@[simp] theorem State.memWrite_res0 (a v : Word) : (s.memWrite a v).res0 = s.res0 := rfl
@[simp] theorem State.memWrite_res1 (a v : Word) : (s.memWrite a v).res1 = s.res1 := rfl
@[simp] theorem State.memWrite_busy (a v : Word) : (s.memWrite a v).busy = s.busy := rfl
@[simp] theorem State.memWrite_op (a v : Word) : (s.memWrite a v).op = s.op := rfl
@[simp] theorem State.memWrite_phase (a v : Word) : (s.memWrite a v).phase = s.phase := rfl
@[simp] theorem State.memWrite_txCur (a v : Word) : (s.memWrite a v).txCur = s.txCur := rfl
@[simp] theorem State.memWrite_rxCur (a v : Word) : (s.memWrite a v).rxCur = s.rxCur := rfl
@[simp] theorem State.memWrite_rxOut (a v : Word) : (s.memWrite a v).rxOut = s.rxOut := rfl
@[simp] theorem State.memWrite_rxOutSlot (a v : Word) : (s.memWrite a v).rxOutSlot = s.rxOutSlot := rfl
@[simp] theorem State.memWrite_txHwptr (a v : Word) : (s.memWrite a v).txHwptr = s.txHwptr := rfl
@[simp] theorem State.memWrite_rxHwptr (a v : Word) : (s.memWrite a v).rxHwptr = s.rxHwptr := rfl
@[simp] theorem State.memWrite_txKick (a v : Word) : (s.memWrite a v).txKick = s.txKick := rfl
@[simp] theorem State.memWrite_txd (a v : Word) : (s.memWrite a v).txd = s.txd := rfl
@[simp] theorem State.memWrite_rxd (a v : Word) : (s.memWrite a v).rxd = s.rxd := rfl
@[simp] theorem State.memWrite_macAddr (a v : Word) : (s.memWrite a v).macAddr = s.macAddr := rfl
@[simp] theorem State.memWrite_mac (a v : Word) : (s.memWrite a v).mac = s.mac := rfl
@[simp] theorem State.memWrite_macRst (a v : Word) : (s.memWrite a v).macRst = s.macRst := rfl
@[simp] theorem State.memWrite_mem (a v : Word) : (s.memWrite a v).mem = (s.store.cpuWrite s.cfg a v).mem := rfl
@[simp] theorem State.memWrite_cache (a v : Word) : (s.memWrite a v).cache = (s.store.cpuWrite s.cfg a v).cache := rfl
@[simp] theorem State.memWrite_expired (a v : Word) : (s.memWrite a v).expired = s.expired := rfl
@[simp] theorem State.memWrite_wireTx (a v : Word) : (s.memWrite a v).wireTx = s.wireTx := rfl
@[simp] theorem State.memWrite_agenda (a v : Word) : (s.memWrite a v).agenda = s.agenda := rfl
@[simp] theorem State.memWrite_requests (a v : Word) : (s.memWrite a v).requests = s.requests := rfl
@[simp] theorem State.memWrite_ticks (a v : Word) : (s.memWrite a v).ticks = s.ticks := rfl
@[simp] theorem State.memWrite_draw (a v : Word) : (s.memWrite a v).draw = s.draw := rfl

/-! ## A list of `MemWrite32`s -/

@[simp] theorem State.memWriteAll_cfg (ws : List (Word × Word)) : (s.memWriteAll ws).cfg = s.cfg := rfl
@[simp] theorem State.memWriteAll_life (ws : List (Word × Word)) : (s.memWriteAll ws).life = s.life := rfl
@[simp] theorem State.memWriteAll_cmd (ws : List (Word × Word)) : (s.memWriteAll ws).cmd = s.cmd := rfl
@[simp] theorem State.memWriteAll_arg0 (ws : List (Word × Word)) : (s.memWriteAll ws).arg0 = s.arg0 := rfl
@[simp] theorem State.memWriteAll_arg1 (ws : List (Word × Word)) : (s.memWriteAll ws).arg1 = s.arg1 := rfl
@[simp] theorem State.memWriteAll_res0 (ws : List (Word × Word)) : (s.memWriteAll ws).res0 = s.res0 := rfl
@[simp] theorem State.memWriteAll_res1 (ws : List (Word × Word)) : (s.memWriteAll ws).res1 = s.res1 := rfl
@[simp] theorem State.memWriteAll_busy (ws : List (Word × Word)) : (s.memWriteAll ws).busy = s.busy := rfl
@[simp] theorem State.memWriteAll_op (ws : List (Word × Word)) : (s.memWriteAll ws).op = s.op := rfl
@[simp] theorem State.memWriteAll_phase (ws : List (Word × Word)) : (s.memWriteAll ws).phase = s.phase := rfl
@[simp] theorem State.memWriteAll_txCur (ws : List (Word × Word)) : (s.memWriteAll ws).txCur = s.txCur := rfl
@[simp] theorem State.memWriteAll_rxCur (ws : List (Word × Word)) : (s.memWriteAll ws).rxCur = s.rxCur := rfl
@[simp] theorem State.memWriteAll_rxOut (ws : List (Word × Word)) : (s.memWriteAll ws).rxOut = s.rxOut := rfl
@[simp] theorem State.memWriteAll_rxOutSlot (ws : List (Word × Word)) : (s.memWriteAll ws).rxOutSlot = s.rxOutSlot := rfl
@[simp] theorem State.memWriteAll_txHwptr (ws : List (Word × Word)) : (s.memWriteAll ws).txHwptr = s.txHwptr := rfl
@[simp] theorem State.memWriteAll_rxHwptr (ws : List (Word × Word)) : (s.memWriteAll ws).rxHwptr = s.rxHwptr := rfl
@[simp] theorem State.memWriteAll_txKick (ws : List (Word × Word)) : (s.memWriteAll ws).txKick = s.txKick := rfl
@[simp] theorem State.memWriteAll_txd (ws : List (Word × Word)) : (s.memWriteAll ws).txd = s.txd := rfl
@[simp] theorem State.memWriteAll_rxd (ws : List (Word × Word)) : (s.memWriteAll ws).rxd = s.rxd := rfl
@[simp] theorem State.memWriteAll_macAddr (ws : List (Word × Word)) : (s.memWriteAll ws).macAddr = s.macAddr := rfl
@[simp] theorem State.memWriteAll_mac (ws : List (Word × Word)) : (s.memWriteAll ws).mac = s.mac := rfl
@[simp] theorem State.memWriteAll_macRst (ws : List (Word × Word)) : (s.memWriteAll ws).macRst = s.macRst := rfl
@[simp] theorem State.memWriteAll_mem (ws : List (Word × Word)) : (s.memWriteAll ws).mem = (s.store.cpuWriteAll s.cfg ws).mem := rfl
@[simp] theorem State.memWriteAll_cache (ws : List (Word × Word)) : (s.memWriteAll ws).cache = (s.store.cpuWriteAll s.cfg ws).cache := rfl
@[simp] theorem State.memWriteAll_expired (ws : List (Word × Word)) : (s.memWriteAll ws).expired = s.expired := rfl
@[simp] theorem State.memWriteAll_wireTx (ws : List (Word × Word)) : (s.memWriteAll ws).wireTx = s.wireTx := rfl
@[simp] theorem State.memWriteAll_agenda (ws : List (Word × Word)) : (s.memWriteAll ws).agenda = s.agenda := rfl
@[simp] theorem State.memWriteAll_requests (ws : List (Word × Word)) : (s.memWriteAll ws).requests = s.requests := rfl
@[simp] theorem State.memWriteAll_ticks (ws : List (Word × Word)) : (s.memWriteAll ws).ticks = s.ticks := rfl
@[simp] theorem State.memWriteAll_draw (ws : List (Word × Word)) : (s.memWriteAll ws).draw = s.draw := rfl

/-! ## One line of a Flush -/

@[simp] theorem State.flushLine_cfg (l : Nat) : (s.flushLine l).cfg = s.cfg := rfl
@[simp] theorem State.flushLine_life (l : Nat) : (s.flushLine l).life = s.life := rfl
@[simp] theorem State.flushLine_cmd (l : Nat) : (s.flushLine l).cmd = s.cmd := rfl
@[simp] theorem State.flushLine_arg0 (l : Nat) : (s.flushLine l).arg0 = s.arg0 := rfl
@[simp] theorem State.flushLine_arg1 (l : Nat) : (s.flushLine l).arg1 = s.arg1 := rfl
@[simp] theorem State.flushLine_res0 (l : Nat) : (s.flushLine l).res0 = s.res0 := rfl
@[simp] theorem State.flushLine_res1 (l : Nat) : (s.flushLine l).res1 = s.res1 := rfl
@[simp] theorem State.flushLine_busy (l : Nat) : (s.flushLine l).busy = s.busy := rfl
@[simp] theorem State.flushLine_op (l : Nat) : (s.flushLine l).op = s.op := rfl
@[simp] theorem State.flushLine_phase (l : Nat) : (s.flushLine l).phase = s.phase := rfl
@[simp] theorem State.flushLine_txCur (l : Nat) : (s.flushLine l).txCur = s.txCur := rfl
@[simp] theorem State.flushLine_rxCur (l : Nat) : (s.flushLine l).rxCur = s.rxCur := rfl
@[simp] theorem State.flushLine_rxOut (l : Nat) : (s.flushLine l).rxOut = s.rxOut := rfl
@[simp] theorem State.flushLine_rxOutSlot (l : Nat) : (s.flushLine l).rxOutSlot = s.rxOutSlot := rfl
@[simp] theorem State.flushLine_txHwptr (l : Nat) : (s.flushLine l).txHwptr = s.txHwptr := rfl
@[simp] theorem State.flushLine_rxHwptr (l : Nat) : (s.flushLine l).rxHwptr = s.rxHwptr := rfl
@[simp] theorem State.flushLine_txKick (l : Nat) : (s.flushLine l).txKick = s.txKick := rfl
@[simp] theorem State.flushLine_txd (l : Nat) : (s.flushLine l).txd = s.txd := rfl
@[simp] theorem State.flushLine_rxd (l : Nat) : (s.flushLine l).rxd = s.rxd := rfl
@[simp] theorem State.flushLine_macAddr (l : Nat) : (s.flushLine l).macAddr = s.macAddr := rfl
@[simp] theorem State.flushLine_mac (l : Nat) : (s.flushLine l).mac = s.mac := rfl
@[simp] theorem State.flushLine_macRst (l : Nat) : (s.flushLine l).macRst = s.macRst := rfl
@[simp] theorem State.flushLine_mem (l : Nat) : (s.flushLine l).mem = (s.store.flushLine s.cfg l).mem := rfl
@[simp] theorem State.flushLine_cache (l : Nat) : (s.flushLine l).cache = (s.store.flushLine s.cfg l).cache := rfl
@[simp] theorem State.flushLine_expired (l : Nat) : (s.flushLine l).expired = s.expired := rfl
@[simp] theorem State.flushLine_wireTx (l : Nat) : (s.flushLine l).wireTx = s.wireTx := rfl
@[simp] theorem State.flushLine_agenda (l : Nat) : (s.flushLine l).agenda = s.agenda := rfl
@[simp] theorem State.flushLine_requests (l : Nat) : (s.flushLine l).requests = s.requests := rfl
@[simp] theorem State.flushLine_ticks (l : Nat) : (s.flushLine l).ticks = s.ticks := rfl
@[simp] theorem State.flushLine_draw (l : Nat) : (s.flushLine l).draw = s.draw := rfl

/-! ## One line of an Invalidate -/

@[simp] theorem State.invalidateLine_cfg (l : Nat) : (s.invalidateLine l).cfg = s.cfg := rfl
@[simp] theorem State.invalidateLine_life (l : Nat) : (s.invalidateLine l).life = s.life := rfl
@[simp] theorem State.invalidateLine_cmd (l : Nat) : (s.invalidateLine l).cmd = s.cmd := rfl
@[simp] theorem State.invalidateLine_arg0 (l : Nat) : (s.invalidateLine l).arg0 = s.arg0 := rfl
@[simp] theorem State.invalidateLine_arg1 (l : Nat) : (s.invalidateLine l).arg1 = s.arg1 := rfl
@[simp] theorem State.invalidateLine_res0 (l : Nat) : (s.invalidateLine l).res0 = s.res0 := rfl
@[simp] theorem State.invalidateLine_res1 (l : Nat) : (s.invalidateLine l).res1 = s.res1 := rfl
@[simp] theorem State.invalidateLine_busy (l : Nat) : (s.invalidateLine l).busy = s.busy := rfl
@[simp] theorem State.invalidateLine_op (l : Nat) : (s.invalidateLine l).op = s.op := rfl
@[simp] theorem State.invalidateLine_phase (l : Nat) : (s.invalidateLine l).phase = s.phase := rfl
@[simp] theorem State.invalidateLine_txCur (l : Nat) : (s.invalidateLine l).txCur = s.txCur := rfl
@[simp] theorem State.invalidateLine_rxCur (l : Nat) : (s.invalidateLine l).rxCur = s.rxCur := rfl
@[simp] theorem State.invalidateLine_rxOut (l : Nat) : (s.invalidateLine l).rxOut = s.rxOut := rfl
@[simp] theorem State.invalidateLine_rxOutSlot (l : Nat) : (s.invalidateLine l).rxOutSlot = s.rxOutSlot := rfl
@[simp] theorem State.invalidateLine_txHwptr (l : Nat) : (s.invalidateLine l).txHwptr = s.txHwptr := rfl
@[simp] theorem State.invalidateLine_rxHwptr (l : Nat) : (s.invalidateLine l).rxHwptr = s.rxHwptr := rfl
@[simp] theorem State.invalidateLine_txKick (l : Nat) : (s.invalidateLine l).txKick = s.txKick := rfl
@[simp] theorem State.invalidateLine_txd (l : Nat) : (s.invalidateLine l).txd = s.txd := rfl
@[simp] theorem State.invalidateLine_rxd (l : Nat) : (s.invalidateLine l).rxd = s.rxd := rfl
@[simp] theorem State.invalidateLine_macAddr (l : Nat) : (s.invalidateLine l).macAddr = s.macAddr := rfl
@[simp] theorem State.invalidateLine_mac (l : Nat) : (s.invalidateLine l).mac = s.mac := rfl
@[simp] theorem State.invalidateLine_macRst (l : Nat) : (s.invalidateLine l).macRst = s.macRst := rfl
@[simp] theorem State.invalidateLine_mem (l : Nat) : (s.invalidateLine l).mem = s.mem := rfl
@[simp] theorem State.invalidateLine_cache (l : Nat) : (s.invalidateLine l).cache = s.cache.drop l := rfl
@[simp] theorem State.invalidateLine_expired (l : Nat) : (s.invalidateLine l).expired = s.expired := rfl
@[simp] theorem State.invalidateLine_wireTx (l : Nat) : (s.invalidateLine l).wireTx = s.wireTx := rfl
@[simp] theorem State.invalidateLine_agenda (l : Nat) : (s.invalidateLine l).agenda = s.agenda := rfl
@[simp] theorem State.invalidateLine_requests (l : Nat) : (s.invalidateLine l).requests = s.requests := rfl
@[simp] theorem State.invalidateLine_ticks (l : Nat) : (s.invalidateLine l).ticks = s.ticks := rfl
@[simp] theorem State.invalidateLine_draw (l : Nat) : (s.invalidateLine l).draw = s.draw := rfl

/-! ## `DmaWrite32` -/

@[simp] theorem State.dmaWrite_cfg (d v : Word) : (s.dmaWrite d v).cfg = s.cfg := rfl
@[simp] theorem State.dmaWrite_life (d v : Word) : (s.dmaWrite d v).life = s.life := rfl
@[simp] theorem State.dmaWrite_cmd (d v : Word) : (s.dmaWrite d v).cmd = s.cmd := rfl
@[simp] theorem State.dmaWrite_arg0 (d v : Word) : (s.dmaWrite d v).arg0 = s.arg0 := rfl
@[simp] theorem State.dmaWrite_arg1 (d v : Word) : (s.dmaWrite d v).arg1 = s.arg1 := rfl
@[simp] theorem State.dmaWrite_res0 (d v : Word) : (s.dmaWrite d v).res0 = s.res0 := rfl
@[simp] theorem State.dmaWrite_res1 (d v : Word) : (s.dmaWrite d v).res1 = s.res1 := rfl
@[simp] theorem State.dmaWrite_busy (d v : Word) : (s.dmaWrite d v).busy = s.busy := rfl
@[simp] theorem State.dmaWrite_op (d v : Word) : (s.dmaWrite d v).op = s.op := rfl
@[simp] theorem State.dmaWrite_phase (d v : Word) : (s.dmaWrite d v).phase = s.phase := rfl
@[simp] theorem State.dmaWrite_txCur (d v : Word) : (s.dmaWrite d v).txCur = s.txCur := rfl
@[simp] theorem State.dmaWrite_rxCur (d v : Word) : (s.dmaWrite d v).rxCur = s.rxCur := rfl
@[simp] theorem State.dmaWrite_rxOut (d v : Word) : (s.dmaWrite d v).rxOut = s.rxOut := rfl
@[simp] theorem State.dmaWrite_rxOutSlot (d v : Word) : (s.dmaWrite d v).rxOutSlot = s.rxOutSlot := rfl
@[simp] theorem State.dmaWrite_txHwptr (d v : Word) : (s.dmaWrite d v).txHwptr = s.txHwptr := rfl
@[simp] theorem State.dmaWrite_rxHwptr (d v : Word) : (s.dmaWrite d v).rxHwptr = s.rxHwptr := rfl
@[simp] theorem State.dmaWrite_txKick (d v : Word) : (s.dmaWrite d v).txKick = s.txKick := rfl
@[simp] theorem State.dmaWrite_txd (d v : Word) : (s.dmaWrite d v).txd = s.txd := rfl
@[simp] theorem State.dmaWrite_rxd (d v : Word) : (s.dmaWrite d v).rxd = s.rxd := rfl
@[simp] theorem State.dmaWrite_macAddr (d v : Word) : (s.dmaWrite d v).macAddr = s.macAddr := rfl
@[simp] theorem State.dmaWrite_mac (d v : Word) : (s.dmaWrite d v).mac = s.mac := rfl
@[simp] theorem State.dmaWrite_macRst (d v : Word) : (s.dmaWrite d v).macRst = s.macRst := rfl
@[simp] theorem State.dmaWrite_mem (d v : Word) : (s.dmaWrite d v).mem = s.mem.writeWord s.cfg.endian d v := rfl
@[simp] theorem State.dmaWrite_cache (d v : Word) : (s.dmaWrite d v).cache = s.cache := rfl
@[simp] theorem State.dmaWrite_expired (d v : Word) : (s.dmaWrite d v).expired = s.expired := rfl
@[simp] theorem State.dmaWrite_wireTx (d v : Word) : (s.dmaWrite d v).wireTx = s.wireTx := rfl
@[simp] theorem State.dmaWrite_agenda (d v : Word) : (s.dmaWrite d v).agenda = s.agenda := rfl
@[simp] theorem State.dmaWrite_requests (d v : Word) : (s.dmaWrite d v).requests = s.requests := rfl
@[simp] theorem State.dmaWrite_ticks (d v : Word) : (s.dmaWrite d v).ticks = s.ticks := rfl
@[simp] theorem State.dmaWrite_draw (d v : Word) : (s.dmaWrite d v).draw = s.draw := rfl

/-! ## The end of a command -/

@[simp] theorem State.endCommand_cfg (st : Status) (value : Nat) (r1 : Word) : (s.endCommand st value r1).cfg = s.cfg := rfl
@[simp] theorem State.endCommand_life (st : Status) (value : Nat) (r1 : Word) : (s.endCommand st value r1).life = s.life := rfl
@[simp] theorem State.endCommand_cmd (st : Status) (value : Nat) (r1 : Word) : (s.endCommand st value r1).cmd = s.cmd := rfl
@[simp] theorem State.endCommand_arg0 (st : Status) (value : Nat) (r1 : Word) : (s.endCommand st value r1).arg0 = s.arg0 := rfl
@[simp] theorem State.endCommand_arg1 (st : Status) (value : Nat) (r1 : Word) : (s.endCommand st value r1).arg1 = s.arg1 := rfl
@[simp] theorem State.endCommand_res0 (st : Status) (value : Nat) (r1 : Word) : (s.endCommand st value r1).res0 = resultWord st value := rfl
@[simp] theorem State.endCommand_res1 (st : Status) (value : Nat) (r1 : Word) : (s.endCommand st value r1).res1 = r1 := rfl
@[simp] theorem State.endCommand_busy (st : Status) (value : Nat) (r1 : Word) : (s.endCommand st value r1).busy = false := rfl
@[simp] theorem State.endCommand_op (st : Status) (value : Nat) (r1 : Word) : (s.endCommand st value r1).op = none := rfl
@[simp] theorem State.endCommand_phase (st : Status) (value : Nat) (r1 : Word) : (s.endCommand st value r1).phase = .first := rfl
@[simp] theorem State.endCommand_txCur (st : Status) (value : Nat) (r1 : Word) : (s.endCommand st value r1).txCur = s.txCur := rfl
@[simp] theorem State.endCommand_rxCur (st : Status) (value : Nat) (r1 : Word) : (s.endCommand st value r1).rxCur = s.rxCur := rfl
@[simp] theorem State.endCommand_rxOut (st : Status) (value : Nat) (r1 : Word) : (s.endCommand st value r1).rxOut = s.rxOut := rfl
@[simp] theorem State.endCommand_rxOutSlot (st : Status) (value : Nat) (r1 : Word) : (s.endCommand st value r1).rxOutSlot = s.rxOutSlot := rfl
@[simp] theorem State.endCommand_txHwptr (st : Status) (value : Nat) (r1 : Word) : (s.endCommand st value r1).txHwptr = s.txHwptr := rfl
@[simp] theorem State.endCommand_rxHwptr (st : Status) (value : Nat) (r1 : Word) : (s.endCommand st value r1).rxHwptr = s.rxHwptr := rfl
@[simp] theorem State.endCommand_txKick (st : Status) (value : Nat) (r1 : Word) : (s.endCommand st value r1).txKick = s.txKick := rfl
@[simp] theorem State.endCommand_txd (st : Status) (value : Nat) (r1 : Word) : (s.endCommand st value r1).txd = s.txd := rfl
@[simp] theorem State.endCommand_rxd (st : Status) (value : Nat) (r1 : Word) : (s.endCommand st value r1).rxd = s.rxd := rfl
@[simp] theorem State.endCommand_macAddr (st : Status) (value : Nat) (r1 : Word) : (s.endCommand st value r1).macAddr = s.macAddr := rfl
@[simp] theorem State.endCommand_mac (st : Status) (value : Nat) (r1 : Word) : (s.endCommand st value r1).mac = s.mac := rfl
@[simp] theorem State.endCommand_macRst (st : Status) (value : Nat) (r1 : Word) : (s.endCommand st value r1).macRst = s.macRst := rfl
@[simp] theorem State.endCommand_mem (st : Status) (value : Nat) (r1 : Word) : (s.endCommand st value r1).mem = s.mem := rfl
@[simp] theorem State.endCommand_cache (st : Status) (value : Nat) (r1 : Word) : (s.endCommand st value r1).cache = s.cache := rfl
@[simp] theorem State.endCommand_expired (st : Status) (value : Nat) (r1 : Word) : (s.endCommand st value r1).expired = s.expired := rfl
@[simp] theorem State.endCommand_wireTx (st : Status) (value : Nat) (r1 : Word) : (s.endCommand st value r1).wireTx = s.wireTx := rfl
@[simp] theorem State.endCommand_agenda (st : Status) (value : Nat) (r1 : Word) : (s.endCommand st value r1).agenda = s.agenda := rfl
@[simp] theorem State.endCommand_requests (st : Status) (value : Nat) (r1 : Word) : (s.endCommand st value r1).requests = s.requests := rfl
@[simp] theorem State.endCommand_ticks (st : Status) (value : Nat) (r1 : Word) : (s.endCommand st value r1).ticks = s.ticks := rfl
@[simp] theorem State.endCommand_draw (st : Status) (value : Nat) (r1 : Word) : (s.endCommand st value r1).draw = s.draw := rfl

@[simp] theorem State.store_mem : s.store.mem = s.mem := rfl
@[simp] theorem State.store_cache : s.store.cache = s.cache := rfl
@[simp] theorem State.store_withStore (x : Store) : (s.withStore x).store = x := rfl
@[simp] theorem State.withStore_store : s.withStore s.store = s := rfl

/-! ## A write of a MAC register: the fields no register write touches -/

@[simp] theorem State.regWrite_cfg (r : MacReg) (v : Word) : (s.regWrite r v).cfg = s.cfg := by cases r <;> rfl
@[simp] theorem State.regWrite_life (r : MacReg) (v : Word) : (s.regWrite r v).life = s.life := by cases r <;> rfl
@[simp] theorem State.regWrite_cmd (r : MacReg) (v : Word) : (s.regWrite r v).cmd = s.cmd := by cases r <;> rfl
@[simp] theorem State.regWrite_arg0 (r : MacReg) (v : Word) : (s.regWrite r v).arg0 = s.arg0 := by cases r <;> rfl
@[simp] theorem State.regWrite_arg1 (r : MacReg) (v : Word) : (s.regWrite r v).arg1 = s.arg1 := by cases r <;> rfl
@[simp] theorem State.regWrite_res0 (r : MacReg) (v : Word) : (s.regWrite r v).res0 = s.res0 := by cases r <;> rfl
@[simp] theorem State.regWrite_res1 (r : MacReg) (v : Word) : (s.regWrite r v).res1 = s.res1 := by cases r <;> rfl
@[simp] theorem State.regWrite_busy (r : MacReg) (v : Word) : (s.regWrite r v).busy = s.busy := by cases r <;> rfl
@[simp] theorem State.regWrite_op (r : MacReg) (v : Word) : (s.regWrite r v).op = s.op := by cases r <;> rfl
@[simp] theorem State.regWrite_phase (r : MacReg) (v : Word) : (s.regWrite r v).phase = s.phase := by cases r <;> rfl
@[simp] theorem State.regWrite_txCur (r : MacReg) (v : Word) : (s.regWrite r v).txCur = s.txCur := by cases r <;> rfl
@[simp] theorem State.regWrite_rxCur (r : MacReg) (v : Word) : (s.regWrite r v).rxCur = s.rxCur := by cases r <;> rfl
@[simp] theorem State.regWrite_rxOut (r : MacReg) (v : Word) : (s.regWrite r v).rxOut = s.rxOut := by cases r <;> rfl
@[simp] theorem State.regWrite_rxOutSlot (r : MacReg) (v : Word) : (s.regWrite r v).rxOutSlot = s.rxOutSlot := by cases r <;> rfl
@[simp] theorem State.regWrite_txd (r : MacReg) (v : Word) : (s.regWrite r v).txd = s.txd := by cases r <;> rfl
@[simp] theorem State.regWrite_rxd (r : MacReg) (v : Word) : (s.regWrite r v).rxd = s.rxd := by cases r <;> rfl
@[simp] theorem State.regWrite_macAddr (r : MacReg) (v : Word) : (s.regWrite r v).macAddr = s.macAddr := by cases r <;> rfl
@[simp] theorem State.regWrite_mem (r : MacReg) (v : Word) : (s.regWrite r v).mem = s.mem := by cases r <;> rfl
@[simp] theorem State.regWrite_cache (r : MacReg) (v : Word) : (s.regWrite r v).cache = s.cache := by cases r <;> rfl
@[simp] theorem State.regWrite_expired (r : MacReg) (v : Word) : (s.regWrite r v).expired = s.expired := by cases r <;> rfl
@[simp] theorem State.regWrite_wireTx (r : MacReg) (v : Word) : (s.regWrite r v).wireTx = s.wireTx := by cases r <;> rfl
@[simp] theorem State.regWrite_agenda (r : MacReg) (v : Word) : (s.regWrite r v).agenda = s.agenda := by cases r <;> rfl
@[simp] theorem State.regWrite_requests (r : MacReg) (v : Word) : (s.regWrite r v).requests = s.requests := by cases r <;> rfl
@[simp] theorem State.regWrite_ticks (r : MacReg) (v : Word) : (s.regWrite r v).ticks = s.ticks := by cases r <;> rfl
@[simp] theorem State.regWrite_draw (r : MacReg) (v : Word) : (s.regWrite r v).draw = s.draw := by cases r <;> rfl

/-! ## The two writes with a side effect (R77), and the ring bases (R27) -/

@[simp] theorem State.regWrite_nptxpd_txKick (v : Word) : (s.regWrite .nptxpd v).txKick = true := rfl
@[simp] theorem State.regWrite_nptxpd_mac (v : Word) : (s.regWrite .nptxpd v).mac = s.mac := rfl
@[simp] theorem State.regWrite_nptxpd_macRst (v : Word) : (s.regWrite .nptxpd v).macRst = s.macRst := rfl
@[simp] theorem State.regWrite_maccr_mac (v : Word) :
    (s.regWrite .maccr v).mac = { s.mac with maccr := v &&& ~~~Maccr.swRst } := rfl
@[simp] theorem State.regWrite_maccr_macRst (v : Word) : (s.regWrite .maccr v).macRst = (s.macRst || v.getLsbD 31) := rfl
@[simp] theorem State.regWrite_maccr_txKick (v : Word) : (s.regWrite .maccr v).txKick = s.txKick := rfl
@[simp] theorem State.regWrite_maccr_txHwptr (v : Word) : (s.regWrite .maccr v).txHwptr = s.txHwptr := rfl
@[simp] theorem State.regWrite_maccr_rxHwptr (v : Word) : (s.regWrite .maccr v).rxHwptr = s.rxHwptr := rfl
@[simp] theorem State.regWrite_nptxrBadr_txHwptr (v : Word) : (s.regWrite .nptxrBadr v).txHwptr = v := rfl
@[simp] theorem State.regWrite_rxrBadr_rxHwptr (v : Word) : (s.regWrite .rxrBadr v).rxHwptr = v := rfl

/-- A register write other than MACCR's starts no reset (R77). -/
theorem State.regWrite_macRst_of_ne (r : MacReg) (v : Word) (h : r ≠ .maccr) : (s.regWrite r v).macRst = s.macRst := by
  cases r <;> first | rfl | exact absurd rfl h

/-- A register write other than MACCR's leaves MACCR alone. -/
theorem State.regWrite_maccr_of_ne (r : MacReg) (v : Word) (h : r ≠ .maccr) : (s.regWrite r v).mac.maccr = s.mac.maccr := by
  cases r <;> first | rfl | exact absurd rfl h

/-- A register write other than the doorbell's leaves the kick alone. -/
theorem State.regWrite_txKick_of_ne (r : MacReg) (v : Word) (h : r ≠ .nptxpd) : (s.regWrite r v).txKick = s.txKick := by
  cases r <;> first | rfl | exact absurd rfl h

/-! ## RING_INIT's I6 -/

@[simp] theorem State.rewind_cfg (r : Ring) : (s.rewind r).cfg = s.cfg := by cases r <;> rfl
@[simp] theorem State.rewind_life (r : Ring) : (s.rewind r).life = s.life := by cases r <;> rfl
@[simp] theorem State.rewind_cmd (r : Ring) : (s.rewind r).cmd = s.cmd := by cases r <;> rfl
@[simp] theorem State.rewind_arg0 (r : Ring) : (s.rewind r).arg0 = s.arg0 := by cases r <;> rfl
@[simp] theorem State.rewind_arg1 (r : Ring) : (s.rewind r).arg1 = s.arg1 := by cases r <;> rfl
@[simp] theorem State.rewind_res0 (r : Ring) : (s.rewind r).res0 = s.res0 := by cases r <;> rfl
@[simp] theorem State.rewind_res1 (r : Ring) : (s.rewind r).res1 = s.res1 := by cases r <;> rfl
@[simp] theorem State.rewind_busy (r : Ring) : (s.rewind r).busy = s.busy := by cases r <;> rfl
@[simp] theorem State.rewind_op (r : Ring) : (s.rewind r).op = s.op := by cases r <;> rfl
@[simp] theorem State.rewind_phase (r : Ring) : (s.rewind r).phase = s.phase := by cases r <;> rfl
@[simp] theorem State.rewind_rxOutSlot (r : Ring) : (s.rewind r).rxOutSlot = s.rxOutSlot := by cases r <;> rfl
@[simp] theorem State.rewind_txHwptr (r : Ring) : (s.rewind r).txHwptr = s.txHwptr := by cases r <;> rfl
@[simp] theorem State.rewind_rxHwptr (r : Ring) : (s.rewind r).rxHwptr = s.rxHwptr := by cases r <;> rfl
@[simp] theorem State.rewind_txKick (r : Ring) : (s.rewind r).txKick = s.txKick := by cases r <;> rfl
@[simp] theorem State.rewind_txd (r : Ring) : (s.rewind r).txd = s.txd := by cases r <;> rfl
@[simp] theorem State.rewind_rxd (r : Ring) : (s.rewind r).rxd = s.rxd := by cases r <;> rfl
@[simp] theorem State.rewind_macAddr (r : Ring) : (s.rewind r).macAddr = s.macAddr := by cases r <;> rfl
@[simp] theorem State.rewind_mac (r : Ring) : (s.rewind r).mac = s.mac := by cases r <;> rfl
@[simp] theorem State.rewind_macRst (r : Ring) : (s.rewind r).macRst = s.macRst := by cases r <;> rfl
@[simp] theorem State.rewind_mem (r : Ring) : (s.rewind r).mem = s.mem := by cases r <;> rfl
@[simp] theorem State.rewind_cache (r : Ring) : (s.rewind r).cache = s.cache := by cases r <;> rfl
@[simp] theorem State.rewind_expired (r : Ring) : (s.rewind r).expired = s.expired := by cases r <;> rfl
@[simp] theorem State.rewind_wireTx (r : Ring) : (s.rewind r).wireTx = s.wireTx := by cases r <;> rfl
@[simp] theorem State.rewind_agenda (r : Ring) : (s.rewind r).agenda = s.agenda := by cases r <;> rfl
@[simp] theorem State.rewind_requests (r : Ring) : (s.rewind r).requests = s.requests := by cases r <;> rfl
@[simp] theorem State.rewind_ticks (r : Ring) : (s.rewind r).ticks = s.ticks := by cases r <;> rfl
@[simp] theorem State.rewind_draw (r : Ring) : (s.rewind r).draw = s.draw := by cases r <;> rfl
@[simp] theorem State.rewind_cur (r : Ring) : (s.rewind r).cur r = 0 := by cases r <;> rfl

end Sys2Proof.Machine
end

