-- ==== Sys2Proof/Laws/Store.lean ====
section
/-! SUPPORT. What a CPU-side access, a Flush line and an Invalidate line do to memory and cache (R79 to R82, R160, R162),
and that each keeps both canonical. -/

namespace Sys2Proof

theorem Config.line_pos (c : Config) : 0 < c.line := Nat.pow_pos (by decide)

/-- LINE is at least 16 and a multiple of 16 (R326 (b)). -/
theorem Config.line_eq (c : Config) : c.line = 16 * 2 ^ c.lineLog := by
  rw [Config.line, Nat.pow_add, Nat.mul_comm]

theorem Config.sixteen_le_line (c : Config) : 16 ≤ c.line := by
  rw [Config.line_eq]
  have := Nat.pow_pos (n := c.lineLog) (show 0 < 2 by decide)
  omega

theorem Config.lineOf_mod (c : Config) (a : Nat) : c.lineOf a % c.line = 0 := by simp [Config.lineOf]

theorem Config.lineOf_le (c : Config) (a : Nat) : c.lineOf a ≤ a := Nat.div_mul_le_self a c.line

theorem Config.lt_lineOf_add (c : Config) (a : Nat) : a < c.lineOf a + c.line := by
  have := Nat.div_add_mod a c.line
  have := Nat.mod_lt a c.line_pos
  rw [Config.lineOf, Nat.mul_comm]
  omega

/-- The line of a 32-bit address is in the 32-bit space. -/
theorem Config.lineOf_lt (c : Config) (a : Word) : c.lineOf a.toNat < 2 ^ 32 :=
  Nat.lt_of_le_of_lt (Nat.div_mul_le_self _ _) a.isLt

namespace Machine

/-- Memory and cache are canonical. -/
def Store.wf (c : Config) (x : Store) : Bool := Memory.wf x.mem && Cache.wf c x.cache

theorem Store.wf_iff (c : Config) (x : Store) : x.wf c = true ↔ Memory.wf x.mem = true ∧ Cache.wf c x.cache = true := by
  simp [Store.wf]

@[simp] theorem lineBytes_length (c : Config) (m : Memory) (l : Nat) : (lineBytes c m l).length = c.line := by
  simp [lineBytes]

/-! ## The canonical form is kept -/

theorem Store.wf_fill (c : Config) (l : Nat) (x : Store) (hb : l < 2 ^ 32) (hl : l % c.line = 0) (hx : x.wf c = true) :
    (x.fill c l).wf c = true := by
  unfold Store.fill
  split
  · exact hx
  · rw [Store.wf_iff] at hx ⊢
    exact ⟨hx.1, Cache.wf_put c _ l _ hb hl (by simp) hx.2⟩

theorem Store.wf_setLineWord (c : Config) (e : Endian) (l off : Nat) (v : Word) (x : Store) (hb : l < 2 ^ 32)
    (hl : l % c.line = 0) (hx : x.wf c = true) : (x.setLineWord e l off v).wf c = true := by
  unfold Store.setLineWord
  split
  · rename_i line hline
    rw [Store.wf_iff] at hx ⊢
    exact ⟨hx.1, Cache.wf_put c _ l _ hb hl (by simpa using Cache.length_of_wf c _ _ _ hx.2 hline) hx.2⟩
  · exact hx

theorem Store.wf_afterRead (c : Config) (a : Word) (x : Store) (hx : x.wf c = true) : (x.afterRead c a).wf c = true := by
  unfold Store.afterRead
  split
  · exact hx
  · exact Store.wf_fill c _ x (c.lineOf_lt _) (c.lineOf_mod _) hx

theorem Store.wf_cpuWrite (c : Config) (a v : Word) (x : Store) (hx : x.wf c = true) : (x.cpuWrite c a v).wf c = true := by
  unfold Store.cpuWrite
  split
  · rw [Store.wf_iff] at hx ⊢
    exact ⟨Memory.wf_writeWord _ _ _ _ hx.1, hx.2⟩
  · exact Store.wf_setLineWord c _ _ _ _ _ (c.lineOf_lt _) (c.lineOf_mod _)
      (Store.wf_fill c _ x (c.lineOf_lt _) (c.lineOf_mod _) hx)

theorem Store.wf_cpuWriteAll (c : Config) (ws : List (Word × Word)) (x : Store) (hx : x.wf c = true) :
    (x.cpuWriteAll c ws).wf c = true := by
  induction ws generalizing x with
  | nil => exact hx
  | cons w rest ih => exact ih _ (Store.wf_cpuWrite c w.1 w.2 x hx)

theorem Store.wf_flushLine (c : Config) (l : Nat) (x : Store) (hx : x.wf c = true) : (x.flushLine c l).wf c = true := by
  unfold Store.flushLine
  split
  · rw [Store.wf_iff] at hx ⊢
    refine ⟨?_, Cache.wf_drop c _ l hx.2⟩
    dsimp only
    split
    · exact Memory.wf_writeBytes _ _ _ hx.1
    · exact hx.1
  · exact hx

theorem Store.wf_invalidateLine (c : Config) (l : Nat) (x : Store) (hx : x.wf c = true) :
    (x.invalidateLine l).wf c = true := by
  rw [Store.wf_iff] at hx ⊢
  exact ⟨hx.1, Cache.wf_drop c _ l hx.2⟩

/-! ## What a CPU-side access does (R79 to R81) -/

/-- A CPU-side read writes no byte of memory. -/
@[simp] theorem Store.afterRead_mem (c : Config) (a : Word) (x : Store) : (x.afterRead c a).mem = x.mem := by
  unfold Store.afterRead Store.fill
  split
  · rfl
  · split <;> rfl

@[simp] theorem Store.fill_mem (c : Config) (l : Nat) (x : Store) : (x.fill c l).mem = x.mem := by
  unfold Store.fill
  split <;> rfl

@[simp] theorem Store.setLineWord_mem (e : Endian) (l off : Nat) (v : Word) (x : Store) :
    (x.setLineWord e l off v).mem = x.mem := by
  unfold Store.setLineWord
  split <;> rfl

/-- R81: when DMA is not coherent a CPU-side write reaches the cache only. -/
theorem Store.cpuWrite_mem (c : Config) (a v : Word) (x : Store) (h : c.coherent = false) :
    (x.cpuWrite c a v).mem = x.mem := by
  simp [Store.cpuWrite, h]

/-- R79: when DMA is coherent a CPU-side write is a write of memory. -/
theorem Store.cpuWrite_coherent (c : Config) (a v : Word) (x : Store) (h : c.coherent = true) :
    x.cpuWrite c a v = ⟨x.mem.writeWord c.endian (c.toDma a) v, x.cache⟩ := by
  simp [Store.cpuWrite, h]

/-- R79: when DMA is coherent a CPU-side read changes nothing. -/
theorem Store.afterRead_coherent (c : Config) (a : Word) (x : Store) (h : c.coherent = true) : x.afterRead c a = x := by
  simp [Store.afterRead, h]

/-- A filled line is Valid: the old copy, however stale, or memory's bytes, clean (R80). -/
theorem Store.fill_get_same (c : Config) (l : Nat) (x : Store) :
    (x.fill c l).cache.get l = some ((x.cache.get l).getD ⟨lineBytes c x.mem l, false⟩) := by
  unfold Store.fill
  split <;> rename_i h <;> simp [h]

/-- Filling a line leaves every other line alone. -/
theorem Store.fill_get_other (c : Config) (l k : Nat) (x : Store) (h : k ≠ l) :
    (x.fill c l).cache.get k = x.cache.get k := by
  unfold Store.fill
  split
  · rfl
  · exact Cache.get_put_other _ _ _ _ h

/-- The line a non-coherent CPU-side write leaves: the word in it, and dirty (R81). -/
theorem Store.cpuWrite_get_same (c : Config) (a v : Word) (x : Store) (h : c.coherent = false) :
    (x.cpuWrite c a v).cache.get (c.lineOf a.toNat) =
      some ⟨setBytes ((x.cache.get (c.lineOf a.toNat)).getD ⟨lineBytes c x.mem (c.lineOf a.toNat), false⟩).bytes
        (a.toNat - c.lineOf a.toNat) (wordBytes c.endian v), true⟩ := by
  simp [Store.cpuWrite, h, Store.setLineWord, Store.fill_get_same]

/-- A non-coherent CPU-side write leaves every other line alone (R81). -/
theorem Store.cpuWrite_get_other (c : Config) (a v : Word) (k : Nat) (x : Store) (h : c.coherent = false)
    (hk : k ≠ c.lineOf a.toNat) : (x.cpuWrite c a v).cache.get k = x.cache.get k := by
  simp [Store.cpuWrite, h, Store.setLineWord, Store.fill_get_same, Cache.get_put_other _ _ _ _ hk,
    Store.fill_get_other _ _ _ _ hk]

/-- The word a CPU-side read returns is in the line it leaves (R80). -/
theorem Store.cpuWord_eq (c : Config) (a : Word) (x : Store) (h : c.coherent = false) :
    x.cpuWord c a =
      bytesWord c.endian (((x.cache.get (c.lineOf a.toNat)).getD ⟨lineBytes c x.mem (c.lineOf a.toNat), false⟩).bytes.drop
        (a.toNat - c.lineOf a.toNat)) := by
  simp [Store.cpuWord, h, Store.lineWord, Store.fill_get_same]

/-! ## What a Flush line and an Invalidate line do (R160, R162) -/

/-- The line is Invalid after its Flush. -/
@[simp] theorem Store.flushLine_get_same (c : Config) (l : Nat) (x : Store) : (x.flushLine c l).cache.get l = none := by
  unfold Store.flushLine
  split
  · simp
  · assumption

/-- A Flush of one line leaves every other line alone. -/
theorem Store.flushLine_get_other (c : Config) (l k : Nat) (x : Store) (h : k ≠ l) :
    (x.flushLine c l).cache.get k = x.cache.get k := by
  unfold Store.flushLine
  split
  · exact Cache.get_drop_other _ _ _ h
  · rfl

/-- A clean or invalid line is not written to memory (R163). -/
theorem Store.flushLine_mem_clean (c : Config) (l : Nat) (x : Store) (h : ∀ y, x.cache.get l = some y → y.dirty = false) :
    (x.flushLine c l).mem = x.mem := by
  unfold Store.flushLine
  split
  · rename_i y hy
    simp [h y hy]
  · rfl

/-- A dirty line is written to memory whole (R160). -/
theorem Store.flushLine_mem_dirty (c : Config) (l : Nat) (x : Store) (y : CacheLine) (h : x.cache.get l = some y)
    (hd : y.dirty = true) : (x.flushLine c l).mem = x.mem.writeBytes (c.toDma (BitVec.ofNat 32 l)) y.bytes := by
  simp [Store.flushLine, h, hd]

/-- A Flush of one line writes no byte of memory outside the line. -/
theorem Store.flushLine_read_other (c : Config) (l : Nat) (x : Store) (b : Nat) (hx : x.wf c = true)
    (h : ∀ k, k < c.line → b ≠ (c.toDma (BitVec.ofNat 32 l) + BitVec.ofNat 32 k).toNat) :
    (x.flushLine c l).mem.read b = x.mem.read b := by
  unfold Store.flushLine
  split
  · rename_i y hy
    dsimp only
    split
    · apply Memory.read_writeBytes_other
      rw [Cache.length_of_wf c _ _ _ ((Store.wf_iff c x).mp hx).2 hy]
      exact h
    · rfl
  · rfl

end Machine

end Sys2Proof
end

