-- ==== Sys2Proof/Laws/Ops.lean ====
section
/-! SUPPORT. What each shared operation of Machine/Ops.lean can do, said once: the order in which lines and bytes are
taken (`takePick`), one line of a Flush or an Invalidate (`syncLine`), the ends of a phase and of a command, the canonical
form of the store on the state, and the registers. -/

namespace Sys2Proof.Machine

/-! ## The order of lines and bytes (R76, R160, R162) -/

@[simp] theorem takePick_nil (pick : Nat) : takePick pick [] = none := rfl

/-- Taking one element leaves the others: together they are the list, in another order. -/
theorem takePick_cons (pick x : Nat) (xs : List Nat) :
    ∃ l rest, takePick pick (x :: xs) = some (l, rest) ∧ (l :: rest).Perm (x :: xs) ∧ rest.length = xs.length := by
  have hlt : pick % (xs.length + 1) < (x :: xs).length := by
    simpa using Nat.mod_lt pick (Nat.succ_pos xs.length)
  refine ⟨(x :: xs)[pick % (xs.length + 1)], (x :: xs).eraseIdx (pick % (xs.length + 1)), ?_, ?_, ?_⟩
  · simp only [takePick, List.getD, List.getElem?_eq_getElem hlt, Option.getD_some]
  · exact List.getElem_cons_eraseIdx_perm hlt
  · rw [List.length_eraseIdx_of_lt hlt]
    rfl

/-- Every element can be the one taken. -/
theorem takePick_any (todo : List Nat) (x : Nat) (h : x ∈ todo) : ∃ pick rest, takePick pick todo = some (x, rest) := by
  cases todo with
  | nil => simp at h
  | cons y ys =>
    obtain ⟨k, hk, he⟩ := List.getElem_of_mem h
    refine ⟨k, (y :: ys).eraseIdx k, ?_⟩
    have hm : k % (ys.length + 1) = k := Nat.mod_eq_of_lt (by simpa using hk)
    simp only [takePick, hm, List.getD, List.getElem?_eq_getElem hk, Option.getD_some, he]

theorem takePick_eq_none {pick : Nat} {todo : List Nat} : takePick pick todo = none ↔ todo = [] := by
  cases todo with
  | nil => simp
  | cons x xs =>
    obtain ⟨l, rest, h, -⟩ := takePick_cons pick x xs
    simp [h]

/-- What a taken element and the rest are. -/
theorem takePick_perm {pick : Nat} {todo : List Nat} {l : Nat} {rest : List Nat}
    (h : takePick pick todo = some (l, rest)) : (l :: rest).Perm todo := by
  cases todo with
  | nil => simp at h
  | cons x xs =>
    obtain ⟨l', rest', h', hp, -⟩ := takePick_cons pick x xs
    rw [h'] at h
    cases h
    exact hp

/-! ## The end of a phase and of a command -/

theorem proceed_next {i : Instr} {p : Phase} {s t : State} (h : proceed i p s = .next t) :
    t = { s with busy := true, op := some i, phase := p } := by
  cases h
  rfl

theorem finish_next {v : Nat} {r1 : Word} {s t : State} (h : finish v r1 s = .next t) : t = s.endCommand .ok v r1 := by
  cases h
  rfl

theorem raise_next {st : Status} {s t : State} (h : raise st s = .next t) : t = s.endCommand st 0 0#32 := by
  cases h
  rfl

/-- RES0[31:24] is the status (R121). -/
@[simp] theorem State.endCommand_statusCode (s : State) (st : Status) (v : Nat) (r1 : Word) :
    (s.endCommand st v r1).statusCode = st.code := by
  apply BitVec.eq_of_getLsbD_eq
  intro j hj
  simp only [State.statusCode, State.endCommand, resultWord, BitVec.getLsbD_extractLsb', BitVec.getLsbD_append]
  simp [hj]

/-- RES0[23:0] is the value (R121). -/
@[simp] theorem State.endCommand_resultValue (s : State) (st : Status) (v : Nat) (r1 : Word) :
    (s.endCommand st v r1).resultValue = BitVec.ofNat 24 v := by
  apply BitVec.eq_of_getLsbD_eq
  intro j hj
  simp only [State.resultValue, State.endCommand, resultWord, BitVec.getLsbD_extractLsb', BitVec.getLsbD_append]
  simp [hj]

/-- Everything `syncLine` can do: no line is left and the phase ends, or one line of the list is done, the last one
together with the phase's end. -/
theorem syncLine_cases (i : Instr) (act : State → Nat → State) (again : List Nat → Phase) (done : State → Answer)
    (todo : List Nat) (s : State) :
    (todo = [] ∧ syncLine i act again done todo s = done s) ∨
    ∃ l rest, (l :: rest).Perm todo ∧
      syncLine i act again done todo s = if rest = [] then done (act s l) else proceed i (again rest) (act s l) := by
  cases todo with
  | nil => exact .inl ⟨rfl, rfl⟩
  | cons x xs =>
    obtain ⟨l, rest, h, hp, -⟩ := takePick_cons s.draw.pick x xs
    refine .inr ⟨l, rest, hp, ?_⟩
    cases rest <;> simp [syncLine, h]

/-! ## The store on the state -/

/-- A CPU-side write leaves the cache empty when DMA is coherent. -/
theorem Store.cpuWrite_cache_coherent (c : Config) (a v : Word) (x : Store) (h : c.coherent = true) :
    (x.cpuWrite c a v).cache = x.cache := by
  simp [Store.cpuWrite, h]

theorem Store.cpuWriteAll_cache_coherent (c : Config) (ws : List (Word × Word)) (x : Store) (h : c.coherent = true) :
    (x.cpuWriteAll c ws).cache = x.cache := by
  induction ws generalizing x with
  | nil => rfl
  | cons w rest ih => rw [Store.cpuWriteAll, ih, Store.cpuWrite_cache_coherent c _ _ x h]

/-- R81: when DMA is not coherent no list of CPU-side writes reaches memory. -/
theorem Store.cpuWriteAll_mem (c : Config) (ws : List (Word × Word)) (x : Store) (h : c.coherent = false) :
    (x.cpuWriteAll c ws).mem = x.mem := by
  induction ws generalizing x with
  | nil => rfl
  | cons w rest ih => rw [Store.cpuWriteAll, ih, Store.cpuWrite_mem c _ _ x h]

theorem Store.flushLine_cache_empty (c : Config) (l : Nat) (x : Store) (h : x.cache = []) :
    (x.flushLine c l).cache = [] := by
  simp [Store.flushLine, h]

/-- A DMA word write keeps the memory canonical. -/
theorem State.wf_dmaWrite (s : State) (d v : Word) (h : s.mem.wf = true) : (s.dmaWrite d v).mem.wf = true :=
  Memory.wf_writeWord _ _ _ _ h

theorem State.wf_dmaWriteAll (s : State) (ws : List (Word × Word)) (h : s.mem.wf = true) :
    (s.dmaWriteAll ws).mem.wf = true := by
  induction ws generalizing s with
  | nil => exact h
  | cons w rest ih => exact ih _ (State.wf_dmaWrite s _ _ h)

/-- Memory and cache are canonical at power-on. -/
theorem State.powerOn_wf (c : Config) : (State.powerOn c).mem.wf = true ∧ (State.powerOn c).cache.wf c = true :=
  ⟨rfl, rfl⟩

/-- The reset memory has the canonical form. -/
theorem State.reset_mem_wf : State.reset.mem.wf = true := rfl

/-! ## Registers (R77, R324) -/

/-- A read of one register does not see a write of another. -/
theorem State.regRead_regWrite_other (s : State) (r q : MacReg) (v : Word) (h : q ≠ r) :
    (s.regWrite r v).regRead q = s.regRead q := by
  cases r <;> cases q <;> first | rfl | exact absurd rfl h

/-- The stored MACCR has bit 31 = 0 after every write (R54). -/
theorem State.regWrite_maccr_bit (s : State) (v : Word) : (s.regWrite .maccr v).mac.maccr.getLsbD 31 = false := by
  have h : (~~~Maccr.swRst).getLsbD 31 = false := by decide
  rw [State.regWrite, BitVec.getLsbD_and, h, Bool.and_false]

/-! ## Address translation (R71) -/

@[simp] theorem translate_nil (a : Word) : translate [] a = a := rfl

theorem Config.toDma_id (c : Config) (a : Word) (h : c.toDmaMap = []) : c.toDma a = a := by simp [Config.toDma, h]

theorem Config.fromDma_id (c : Config) (a : Word) (h : c.fromDmaMap = []) : c.fromDma a = a := by
  simp [Config.fromDma, h]

/-- No line is taken when DMA is coherent (R79). -/
@[simp] theorem Config.syncLines_coherent (c : Config) (a : Word) (n : Nat) (h : c.coherent = true) :
    c.syncLines a n = [] := by
  simp [Config.syncLines, h]

theorem Config.syncLines_not_coherent (c : Config) (a : Word) (n : Nat) (h : c.coherent = false) :
    c.syncLines a n = c.lines a.toNat n := by
  simp [Config.syncLines, h]

end Sys2Proof.Machine
end

