-- ==== Sys2Proof/Laws/Commands.lean ====
section
/-! SUPPORT. Everything the next phase of a command can do, said once: `exec i s = .next t` exactly when `CommandStep i s t`
holds, one constructor for each way a phase can end. Later proofs about commands take `cases` of it and unfold no
meaning. -/

namespace Sys2Proof.Machine

/-! ## A command that goes on -/

section AtPhase

variable (s : State) (i : Instr) (p : Phase)

@[simp] theorem State.atPhase_cfg : (s.atPhase i p).cfg = s.cfg := rfl
@[simp] theorem State.atPhase_life : (s.atPhase i p).life = s.life := rfl
@[simp] theorem State.atPhase_cmd : (s.atPhase i p).cmd = s.cmd := rfl
@[simp] theorem State.atPhase_arg0 : (s.atPhase i p).arg0 = s.arg0 := rfl
@[simp] theorem State.atPhase_arg1 : (s.atPhase i p).arg1 = s.arg1 := rfl
@[simp] theorem State.atPhase_res0 : (s.atPhase i p).res0 = s.res0 := rfl
@[simp] theorem State.atPhase_res1 : (s.atPhase i p).res1 = s.res1 := rfl
@[simp] theorem State.atPhase_busy : (s.atPhase i p).busy = true := rfl
@[simp] theorem State.atPhase_op : (s.atPhase i p).op = some i := rfl
@[simp] theorem State.atPhase_phase : (s.atPhase i p).phase = p := rfl
@[simp] theorem State.atPhase_txCur : (s.atPhase i p).txCur = s.txCur := rfl
@[simp] theorem State.atPhase_rxCur : (s.atPhase i p).rxCur = s.rxCur := rfl
@[simp] theorem State.atPhase_rxOut : (s.atPhase i p).rxOut = s.rxOut := rfl
@[simp] theorem State.atPhase_rxOutSlot : (s.atPhase i p).rxOutSlot = s.rxOutSlot := rfl
@[simp] theorem State.atPhase_txHwptr : (s.atPhase i p).txHwptr = s.txHwptr := rfl
@[simp] theorem State.atPhase_rxHwptr : (s.atPhase i p).rxHwptr = s.rxHwptr := rfl
@[simp] theorem State.atPhase_txKick : (s.atPhase i p).txKick = s.txKick := rfl
@[simp] theorem State.atPhase_txd : (s.atPhase i p).txd = s.txd := rfl
@[simp] theorem State.atPhase_rxd : (s.atPhase i p).rxd = s.rxd := rfl
@[simp] theorem State.atPhase_macAddr : (s.atPhase i p).macAddr = s.macAddr := rfl
@[simp] theorem State.atPhase_mac : (s.atPhase i p).mac = s.mac := rfl
@[simp] theorem State.atPhase_macRst : (s.atPhase i p).macRst = s.macRst := rfl
@[simp] theorem State.atPhase_mem : (s.atPhase i p).mem = s.mem := rfl
@[simp] theorem State.atPhase_cache : (s.atPhase i p).cache = s.cache := rfl
@[simp] theorem State.atPhase_expired : (s.atPhase i p).expired = s.expired := rfl
@[simp] theorem State.atPhase_wireTx : (s.atPhase i p).wireTx = s.wireTx := rfl
@[simp] theorem State.atPhase_agenda : (s.atPhase i p).agenda = s.agenda := rfl
@[simp] theorem State.atPhase_requests : (s.atPhase i p).requests = s.requests := rfl
@[simp] theorem State.atPhase_ticks : (s.atPhase i p).ticks = s.ticks := rfl
@[simp] theorem State.atPhase_draw : (s.atPhase i p).draw = s.draw := rfl

@[simp] theorem State.atPhase_store : (s.atPhase i p).store = s.store := rfl

end AtPhase

/-! ## The outcomes of one phase -/

/-- The state after the last line of a Flush or an Invalidate: no line was left, or the one that was left is done. -/
def LastLine (o : LineOp) (todo : List Nat) (s u : State) : Prop := (todo = [] ∧ u = s) ∨ ∃ l, todo = [l] ∧ u = o.act s l

/-- A line is done and others are left. -/
def OneLine (o : LineOp) (todo rest : List Nat) (s u : State) : Prop :=
  rest ≠ [] ∧ ∃ l, (l :: rest).Perm todo ∧ u = o.act s l

/-- TX_SUBMIT is in T1's Invalidate with these lines left, or enters it now (R182). -/
def TxAtT1 (s : State) (todo : List Nat) : Prop :=
  s.phase = .txT1 todo ∨
  (later .txSubmit s.phase = false ∧ s.life = .running ∧ s.txLen ≤ s.cfg.lenMax ∧ s.arg0.toNat + s.txLen ≤ 2 ^ 32 ∧
    todo = s.cfg.syncLines s.txSlot s.cfg.descSize)

/-- RX_POLL is in P1's Invalidate with these lines left, or enters it now (R211). -/
def RxAtP1 (s : State) (todo : List Nat) : Prop :=
  s.phase = .rxP1 todo ∨
  (later .rxPoll s.phase = false ∧ s.life = .running ∧ s.rxOut = false ∧
    todo = s.cfg.syncLines s.rxSlot s.cfg.descSize)

/-- RX_POLL is in P2's Invalidate of the buffer `[b, b + n)`, or enters it now: the state it goes on from (R211). -/
def RxAtP2 (s u : State) (n : Nat) (b : Word) (todo : List Nat) : Prop :=
  (s.phase = .rxP2Lines n b todo ∧ u = s) ∨
  (∃ w, s.phase = .rxP2 w ∧ n = s.cfg.len w ∧ b = s.viewAddr ∧ todo = s.cfg.syncLines s.viewAddr (s.cfg.len w) ∧
    u = s.memReadState (bufWordOf s.cfg s.rxSlot))

/-- RX_RELEASE is in L2's Flush, or enters it now: the state it goes on from (R212). -/
def RxAtL2 (s u : State) (todo : List Nat) : Prop :=
  (s.phase = .rxL2Lines todo ∧ u = s) ∨
  (s.phase = .rxL2 ∧ todo = s.cfg.syncLines s.releaseSlot s.cfg.descSize ∧ u = s.releaseWrite)

/-- One constructor for each way the next phase of a command can end. -/
inductive CommandStep : Instr → State → State → Prop
  | badState {i s} (h : later i s.phase = false) (hl : legal i s.life = false) :
      CommandStep i s (s.endCommand .badState 0 0#32)
  | ringBegin {r s} (h : later (.ringInit r) s.phase = false) (hl : legal (.ringInit r) s.life = true) :
      CommandStep (.ringInit r) s (s.atPhase (.ringInit r) (.ringInit .i2))
  | ringGoesOn {r s p u q} (h : s.phase = .ringInit p) (hs : ringInitStep r p s = (u, some q)) :
      CommandStep (.ringInit r) s (u.atPhase (.ringInit r) (.ringInit q))
  | ringEnds {r s p u} (h : s.phase = .ringInit p) (hs : ringInitStep r p s = (u, none)) :
      CommandStep (.ringInit r) s (u.endCommand .ok 0 0#32)
  | advanced {r k s} : CommandStep (.ringAdvance r k) s (s.endCommand .ok (s.cfg.advance r k) 0#32)
  | slotGiven {r k s} (h : k < s.cfg.cap r) : CommandStep (.ringSlot r k) s (s.endCommand .ok 0 (s.cfg.slot r k))
  | slotBadArg {r k s} (h : s.cfg.cap r ≤ k) : CommandStep (.ringSlot r k) s (s.endCommand .badArg 0 0#32)
  | markBegins {r k s} (h : later (.ringMarkEnd r k) s.phase = false) (hl : legal (.ringMarkEnd r k) s.life = true)
      (hk : k + 1 = s.cfg.cap r) : CommandStep (.ringMarkEnd r k) s (s.atPhase (.ringMarkEnd r k) .markM2)
  | markBadArg {r k s} (h : later (.ringMarkEnd r k) s.phase = false) (hl : legal (.ringMarkEnd r k) s.life = true)
      (hk : k + 1 ≠ s.cfg.cap r) : CommandStep (.ringMarkEnd r k) s (s.endCommand .badArg 0 0#32)
  | marked {r k s} (h : s.phase = .markM2) :
      CommandStep (.ringMarkEnd r k) s ((s.markEndAt (s.cfg.wordAddr r k 0)).endCommand .ok 0 0#32)
  | flushBadArg {s} (h : later .syncFlush s.phase = false) (hw : wraps s.arg0 s.arg1.toNat = true) :
      CommandStep .syncFlush s (s.endCommand .badArg 0 0#32)
  | flushBegins {s} (h : later .syncFlush s.phase = false) (hw : wraps s.arg0 s.arg1.toNat = false) :
      CommandStep .syncFlush s (s.atPhase .syncFlush (.flushF2 (s.cfg.syncLines s.arg0 s.arg1.toNat)))
  | flushLine {s u todo rest} (h : s.phase = .flushF2 todo) (ho : OneLine .flush todo rest s u) :
      CommandStep .syncFlush s (u.atPhase .syncFlush (.flushF2 rest))
  | flushEnds {s u todo} (h : s.phase = .flushF2 todo) (ho : LastLine .flush todo s u) :
      CommandStep .syncFlush s (u.endCommand .ok 0 0#32)
  | invalidateBadArg {s} (h : later .syncInvalidate s.phase = false) (hw : wraps s.arg0 s.arg1.toNat = true) :
      CommandStep .syncInvalidate s (s.endCommand .badArg 0 0#32)
  | invalidateBegins {s} (h : later .syncInvalidate s.phase = false) (hw : wraps s.arg0 s.arg1.toNat = false) :
      CommandStep .syncInvalidate s (s.atPhase .syncInvalidate (.invalidateV2 (s.cfg.syncLines s.arg0 s.arg1.toNat)))
  | invalidateLine {s u todo rest} (h : s.phase = .invalidateV2 todo) (ho : OneLine .invalidate todo rest s u) :
      CommandStep .syncInvalidate s (u.atPhase .syncInvalidate (.invalidateV2 rest))
  | invalidateEnds {s u todo} (h : s.phase = .invalidateV2 todo) (ho : LastLine .invalidate todo s u) :
      CommandStep .syncInvalidate s (u.endCommand .ok 0 0#32)
  | txBadArg {s} (h : later .txSubmit s.phase = false) (hl : s.life = .running)
      (hb : s.cfg.lenMax < s.txLen ∨ 2 ^ 32 < s.arg0.toNat + s.txLen) :
      CommandStep .txSubmit s (s.endCommand .badArg 0 0#32)
  | txT1Line {s u todo rest} (h : TxAtT1 s todo) (ho : OneLine .invalidate todo rest s u) :
      CommandStep .txSubmit s (u.atPhase .txSubmit (.txT1 rest))
  | txNoDesc {s u todo} (h : TxAtT1 s todo) (ho : LastLine .invalidate todo s u)
      (hw : s.cfg.own (u.memRead s.txSlot) = true) :
      CommandStep .txSubmit s ((u.memReadState s.txSlot).endCommand .noDesc 0 0#32)
  | txSlotFree {s u todo} (h : TxAtT1 s todo) (ho : LastLine .invalidate todo s u)
      (hw : s.cfg.own (u.memRead s.txSlot) = false) :
      CommandStep .txSubmit s ((u.memReadState s.txSlot).atPhase .txSubmit (.txT2 (u.memRead s.txSlot)))
  | txAddress {s w} (h : s.phase = .txT2 w) :
      CommandStep .txSubmit s ((s.memWrite (bufWordOf s.cfg s.txSlot) (s.cfg.toDma s.arg0)).atPhase .txSubmit
        (.txT3 w (s.cfg.syncLines s.arg0 s.txLen)))
  | txT3Line {s u w todo rest} (h : s.phase = .txT3 w todo) (ho : OneLine .flush todo rest s u) :
      CommandStep .txSubmit s (u.atPhase .txSubmit (.txT3 w rest))
  | txT3Ends {s u w todo} (h : s.phase = .txT3 w todo) (ho : LastLine .flush todo s u) :
      CommandStep .txSubmit s (u.atPhase .txSubmit (.txT4 w))
  | txWord0 {s w} (h : s.phase = .txT4 w) :
      CommandStep .txSubmit s ((s.memWrite s.txSlot (s.cfg.txWord0 w s.txLen)).atPhase .txSubmit
        (.txT5 (s.cfg.syncLines s.txSlot s.cfg.descSize)))
  | txT5Line {s u todo rest} (h : s.phase = .txT5 todo) (ho : OneLine .flush todo rest s u) :
      CommandStep .txSubmit s (u.atPhase .txSubmit (.txT5 rest))
  | txT5Ends {s u todo} (h : s.phase = .txT5 todo) (ho : LastLine .flush todo s u) :
      CommandStep .txSubmit s (u.atPhase .txSubmit .txT6)
  | txDoorbell {s} (h : s.phase = .txT6) :
      CommandStep .txSubmit s ({ s with txKick := true, expired := false }.atPhase .txSubmit
        (.txT7 (s.cfg.syncLines s.txSlot s.cfg.descSize)))
  | txT7Line {s u todo rest} (h : s.phase = .txT7 todo) (ho : OneLine .invalidate todo rest s u) :
      CommandStep .txSubmit s (u.atPhase .txSubmit (.txT7 rest))
  | txDone {s u todo} (h : s.phase = .txT7 todo) (ho : LastLine .invalidate todo s u)
      (hw : s.cfg.own (u.memRead s.txSlot) = false) :
      CommandStep .txSubmit s ((u.memReadState s.txSlot).atPhase .txSubmit .txT8)
  | txTimeout {s u todo} (h : s.phase = .txT7 todo) (ho : LastLine .invalidate todo s u)
      (hw : s.cfg.own (u.memRead s.txSlot) = true) (he : s.expired = true) :
      CommandStep .txSubmit s ((u.memReadState s.txSlot).endCommand .txTimeout 0 0#32)
  | txWaits {s u todo} (h : s.phase = .txT7 todo) (ho : LastLine .invalidate todo s u)
      (hw : s.cfg.own (u.memRead s.txSlot) = true) (he : s.expired = false) :
      CommandStep .txSubmit s ((u.memReadState s.txSlot).atPhase .txSubmit
        (.txT7 (s.cfg.syncLines s.txSlot s.cfg.descSize)))
  | txEnds {s} (h : s.phase = .txT8) :
      CommandStep .txSubmit s ({ s with txCur := s.cfg.advance .tx s.txCur }.endCommand .ok 0 0#32)
  | rxPollOutstanding {s} (h : later .rxPoll s.phase = false) (hl : s.life = .running) (ho : s.rxOut = true) :
      CommandStep .rxPoll s (s.endCommand .badState 0 0#32)
  | rxP1Line {s u todo rest} (h : RxAtP1 s todo) (ho : OneLine .invalidate todo rest s u) :
      CommandStep .rxPoll s (u.atPhase .rxPoll (.rxP1 rest))
  | rxNoPacket {s u todo} (h : RxAtP1 s todo) (ho : LastLine .invalidate todo s u)
      (hw : s.cfg.own (u.memRead s.rxSlot) = false ∨ s.cfg.rxBad (u.memRead s.rxSlot) = true) :
      CommandStep .rxPoll s ((u.memReadState s.rxSlot).endCommand .noPacket 0 0#32)
  | rxPacket {s u todo} (h : RxAtP1 s todo) (ho : LastLine .invalidate todo s u)
      (hw : s.cfg.own (u.memRead s.rxSlot) = true) (hb : s.cfg.rxBad (u.memRead s.rxSlot) = false) :
      CommandStep .rxPoll s ((u.memReadState s.rxSlot).atPhase .rxPoll (.rxP2 (u.memRead s.rxSlot)))
  | rxP2Line {s v u n b todo rest} (h : RxAtP2 s v n b todo) (ho : OneLine .invalidate todo rest v u) :
      CommandStep .rxPoll s (u.atPhase .rxPoll (.rxP2Lines n b rest))
  | rxP2Ends {s v u n b todo} (h : RxAtP2 s v n b todo) (ho : LastLine .invalidate todo v u) :
      CommandStep .rxPoll s (u.atPhase .rxPoll (.rxP3 n b))
  | rxPollEnds {s n b} (h : s.phase = .rxP3 n b) :
      CommandStep .rxPoll s ({ s with rxOut := true, rxOutSlot := s.rxCur }.endCommand .ok n b)
  | rxReleaseNone {s} (h : later .rxRelease s.phase = false) (hl : s.life = .running) (ho : s.rxOut = false) :
      CommandStep .rxRelease s (s.endCommand .badState 0 0#32)
  | rxReleaseBegins {s} (h : later .rxRelease s.phase = false) (hl : s.life = .running) (ho : s.rxOut = true) :
      CommandStep .rxRelease s (s.atPhase .rxRelease .rxL2)
  | rxL2Line {s v u todo rest} (h : RxAtL2 s v todo) (ho : OneLine .flush todo rest v u) :
      CommandStep .rxRelease s (u.atPhase .rxRelease (.rxL2Lines rest))
  | rxL2Ends {s v u todo} (h : RxAtL2 s v todo) (ho : LastLine .flush todo v u) :
      CommandStep .rxRelease s (u.atPhase .rxRelease .rxL3)
  | rxReleaseEnds {s} (h : s.phase = .rxL3) :
      CommandStep .rxRelease s
        ({ s with rxCur := s.cfg.advance .rx s.rxCur, rxOut := false }.endCommand .ok 0 0#32)
  | linkBadArg {s} (h : later .linkAdjust s.phase = false) (hl : s.life = .running) (ha : linkOfArg s.arg0 = none) :
      CommandStep .linkAdjust s (s.endCommand .badArg 0 0#32)
  | linkBegins {s ls} (h : later .linkAdjust s.phase = false) (hl : s.life = .running)
      (ha : linkOfArg s.arg0 = some ls) : CommandStep .linkAdjust s (s.atPhase .linkAdjust (.linkK2 ls))
  | linkNoLink {s ls} (h : s.phase = .linkK2 ls) (hr : linkRefused s.cfg ls = true) :
      CommandStep .linkAdjust s (s.endCommand .noLink 0 0#32)
  | linkEnds {s ls} (h : s.phase = .linkK2 ls) (hr : linkRefused s.cfg ls = false) :
      CommandStep .linkAdjust s ((s.linkWrite ls).endCommand .ok 0 (s.linkResult ls))
  | startBegins {s} (h : later .devStart s.phase = false) (hl : legal .devStart s.life = true) :
      CommandStep .devStart s (s.atPhase .devStart .devS2)
  | startConfigOk {s} (h : s.phase = .devS2) (hc : s.cfg.wellFormed = true) :
      CommandStep .devStart s ({ s with life := .starting }.atPhase .devStart .devS3)
  | startConfigBad {s} (h : s.phase = .devS2) (hc : s.cfg.wellFormed = false) :
      CommandStep .devStart s ({ s with life := .error }.endCommand .config 0 0#32)
  | startReset {s} (h : s.phase = .devS3) : CommandStep .devStart s (s.startReset.atPhase .devStart .devS4)
  | startResetDone {s} (h : s.phase = .devS4) (hb : (s.regRead .maccr).getLsbD 31 = false) :
      CommandStep .devStart s (s.atPhase .devStart .devS5)
  | startResetTimeout {s} (h : s.phase = .devS4) (hb : (s.regRead .maccr).getLsbD 31 = true)
      (he : s.cfg.resetBounded = true ∧ s.expired = true) :
      CommandStep .devStart s ({ s with life := .error }.endCommand .resetTimeout 0 0#32)
  | startResetWaits {s} (h : s.phase = .devS4) (hb : (s.regRead .maccr).getLsbD 31 = true)
      (he : ¬(s.cfg.resetBounded = true ∧ s.expired = true)) : CommandStep .devStart s (s.atPhase .devStart .devS4)
  | startMac {s} (h : s.phase = .devS5) : CommandStep .devStart s (s.programMac.atPhase .devStart (.devS6 .i2))
  | startTxRing {s p u q} (h : s.phase = .devS6 p) (hs : ringInitStep .tx p s = (u, some q)) :
      CommandStep .devStart s (u.atPhase .devStart (.devS6 q))
  | startTxRingEnds {s p u} (h : s.phase = .devS6 p) (hs : ringInitStep .tx p s = (u, none)) :
      CommandStep .devStart s (u.atPhase .devStart (.devS7 .i2))
  | startRxRing {s p u q} (h : s.phase = .devS7 p) (hs : ringInitStep .rx p s = (u, some q)) :
      CommandStep .devStart s (u.atPhase .devStart (.devS7 q))
  | startRxRingEnds {s p u} (h : s.phase = .devS7 p) (hs : ringInitStep .rx p s = (u, none)) :
      CommandStep .devStart s (u.atPhase .devStart .devS8)
  | startIer {s} (h : s.phase = .devS8) : CommandStep .devStart s ((s.regWrite .ier 0#32).atPhase .devStart .devS9)
  | startRegisters {s} (h : s.phase = .devS9) : CommandStep .devStart s (s.programRings.atPhase .devStart .devS10)
  | startEnables {s} (h : s.phase = .devS10) : CommandStep .devStart s (s.enableMac.atPhase .devStart .devS11)
  | startTransport {s} (h : s.phase = .devS11) (hp : s.draw.phy = .transport) :
      CommandStep .devStart s ({ s with life := .error }.endCommand .transport 0 0#32)
  | startLink {s ls} (h : s.phase = .devS11) (hp : s.draw.phy = .link ls) :
      CommandStep .devStart s (s.atPhase .devStart (.devS12 ls))
  | startNoLink {s ls} (h : s.phase = .devS12 ls) (hr : linkRefused s.cfg ls = true) :
      CommandStep .devStart s ({ s with life := .error }.endCommand .noLink 0 0#32)
  | startLinkApplied {s ls} (h : s.phase = .devS12 ls) (hr : linkRefused s.cfg ls = false) :
      CommandStep .devStart s ((s.linkWrite ls).atPhase .devStart .devS13)
  | startEnds {s} (h : s.phase = .devS13) :
      CommandStep .devStart s ({ s with life := .running }.endCommand .ok 0 0#32)
  | stopBegins {s} (h : later .devStop s.phase = false) (hl : legal .devStop s.life = true) :
      CommandStep .devStop s (s.atPhase .devStop .stopX2)
  | stopMac {s} (h : s.phase = .stopX2) : CommandStep .devStop s (s.stopMac.atPhase .devStop .stopX3)
  | stopEnds {s} (h : s.phase = .stopX3) :
      CommandStep .devStop s ({ s with life := .stopped }.endCommand .ok 0 0#32)
  | setMacBadArg {s} (h : later .devSetMac s.phase = false) (hl : legal .devSetMac s.life = true)
      (ha : s.arg0.extractLsb' 16 16 ≠ 0#16) : CommandStep .devSetMac s (s.endCommand .badArg 0 0#32)
  | setMacBegins {s} (h : later .devSetMac s.phase = false) (hl : legal .devSetMac s.life = true)
      (ha : s.arg0.extractLsb' 16 16 = 0#16) : CommandStep .devSetMac s (s.atPhase .devSetMac .setMacA2)
  | setMacEnds {s} (h : s.phase = .setMacA2) : CommandStep .devSetMac s (s.setMac.endCommand .ok 0 0#32)

/-! ## `exec` answers one of them -/

/-- What a phase with a Flush or an Invalidate in it answers, in the words of `CommandStep`. -/
theorem syncLine_next (o : LineOp) {i : Instr} {again : List Nat → Phase} {done : State → Answer} {todo : List Nat}
    {s : State} : (∃ u, LastLine o todo s u ∧ syncLine i o.act again done todo s = done u) ∨
    ∃ rest u, OneLine o todo rest s u ∧ syncLine i o.act again done todo s = .next (u.atPhase i (again rest)) := by
  rcases syncLine_cases i o.act again done todo s with ⟨h1, h2⟩ | ⟨l, rest, hp, h2⟩
  · exact .inl ⟨s, .inl ⟨h1, rfl⟩, h2⟩
  · by_cases hr : rest = []
    · subst hr
      rw [if_pos rfl] at h2
      exact .inl ⟨_, .inr ⟨l, List.perm_singleton.mp hp.symm, rfl⟩, h2⟩
    · rw [if_neg hr] at h2
      exact .inr ⟨rest, _, ⟨hr, l, hp, rfl⟩, h2⟩

theorem later_false_of {i : Instr} {p : Phase} (h : ¬ later i p = true) : later i p = false := by simpa using h

/-- An answer that is a next state which `CommandStep` allows. -/
def Answers (i : Instr) (s : State) (a : Answer) : Prop := ∃ t, a = .next t ∧ CommandStep i s t

theorem Answers.mk {i : Instr} {s t : State} (h : CommandStep i s t) : Answers i s (.next t) := ⟨t, rfl, h⟩

theorem ringInit_answers (r : Ring) (s : State) : Answers (.ringInit r) s (execRingInit r s) := by
  unfold execRingInit
  split
  · rename_i p hp
    split
    · exact .mk (.ringGoesOn hp ‹_›)
    · exact .mk (.ringEnds hp ‹_›)
  · rename_i hp
    have hl : later (.ringInit r) s.phase = false := by
      cases hq : s.phase <;> first | rfl | exact absurd hq (hp _)
    split
    · exact .mk (.ringBegin hl ‹_›)
    · exact .mk (.badState hl (by simp_all))

theorem ringSlot_answers (r : Ring) (k : Nat) (s : State) : Answers (.ringSlot r k) s (execRingSlot r k s) := by
  unfold execRingSlot
  split
  · exact .mk (.slotBadArg ‹_›)
  · exact .mk (.slotGiven (by omega))

theorem ringMarkEnd_answers (r : Ring) (k : Nat) (s : State) :
    Answers (.ringMarkEnd r k) s (execRingMarkEnd r k s) := by
  unfold execRingMarkEnd
  split
  · exact .mk (.marked ‹_›)
  · rename_i hp
    have hl : later (.ringMarkEnd r k) s.phase = false := by
      cases hq : s.phase <;> first | rfl | exact absurd hq hp
    split
    · split
      · exact .mk (.markBegins hl ‹_› ‹_›)
      · exact .mk (.markBadArg hl ‹_› ‹_›)
    · exact .mk (.badState hl (by simp_all))

theorem syncFlush_answers (s : State) : Answers .syncFlush s (execSyncFlush s) := by
  unfold execSyncFlush
  split
  · rename_i todo hp
    rcases syncLine_next .flush (i := .syncFlush) (again := .flushF2) (done := finish 0 0#32) (todo := todo) (s := s) with
      ⟨u, hu, he⟩ | ⟨rest, u, hu, he⟩
    · exact ⟨_, he, .flushEnds hp hu⟩
    · exact ⟨_, he, .flushLine hp hu⟩
  · rename_i hp
    have hl : later .syncFlush s.phase = false := by
      cases hq : s.phase <;> first | rfl | exact absurd hq (hp _)
    split
    · exact .mk (.flushBadArg hl ‹_›)
    · exact .mk (.flushBegins hl (by simp_all))

theorem syncInvalidate_answers (s : State) : Answers .syncInvalidate s (execSyncInvalidate s) := by
  unfold execSyncInvalidate
  split
  · rename_i todo hp
    rcases syncLine_next .invalidate (i := .syncInvalidate) (again := .invalidateV2) (done := finish 0 0#32)
      (todo := todo) (s := s) with ⟨u, hu, he⟩ | ⟨rest, u, hu, he⟩
    · exact ⟨_, he, .invalidateEnds hp hu⟩
    · exact ⟨_, he, .invalidateLine hp hu⟩
  · rename_i hp
    have hl : later .syncInvalidate s.phase = false := by
      cases hq : s.phase <;> first | rfl | exact absurd hq (hp _)
    split
    · exact .mk (.invalidateBadArg hl ‹_›)
    · exact .mk (.invalidateBegins hl (by simp_all))

theorem txT1_answers (s : State) (todo : List Nat) (h : TxAtT1 s todo) : Answers .txSubmit s (txT1 todo s) := by
  rcases syncLine_next .invalidate (i := .txSubmit) (again := .txT1) (done := txCheckSlot) (todo := todo) (s := s) with
    ⟨u, hu, he⟩ | ⟨rest, u, hu, he⟩
  · refine (show txT1 todo s = txCheckSlot u from he) ▸ ?_
    have hc : u.cfg = s.cfg ∧ u.txSlot = s.txSlot := by
      rcases hu with ⟨-, rfl⟩ | ⟨l, -, rfl⟩
      · exact ⟨rfl, rfl⟩
      · exact ⟨rfl, rfl⟩
    unfold txCheckSlot
    rw [hc.1, hc.2]
    split
    · exact .mk (.txNoDesc h hu ‹_›)
    · exact .mk (.txSlotFree h hu (by simp_all))
  · exact ⟨_, he, .txT1Line h hu⟩

theorem txStart_answers (s : State) (hl : later .txSubmit s.phase = false) : Answers .txSubmit s (txStart s) := by
  unfold txStart
  split
  · rename_i hr
    have hr : s.life = .running := by simpa [legal] using hr
    split
    · exact .mk (.txBadArg hl hr (.inl ‹_›))
    · split
      · rename_i hw
        exact .mk (.txBadArg hl hr (.inr (by simpa [wraps] using hw)))
      · rename_i hw
        simp only [wraps, decide_eq_true_eq] at hw
        exact txT1_answers s _ (.inr ⟨hl, hr, by omega, by omega, rfl⟩)
  · rename_i hr
    exact .mk (.badState hl (Bool.eq_false_iff.mpr hr))

theorem txT7_answers (s : State) (todo : List Nat) (hp : s.phase = .txT7 todo) :
    Answers .txSubmit s (syncLine .txSubmit State.invalidateLine .txT7 txCheckDone todo s) := by
  rcases syncLine_next .invalidate (i := .txSubmit) (again := .txT7) (done := txCheckDone) (todo := todo)
    (s := s) with ⟨u, hu, he⟩ | ⟨rest, u, hu, he⟩
  · refine (show syncLine .txSubmit State.invalidateLine .txT7 txCheckDone todo s = txCheckDone u from he) ▸ ?_
    have hc : u.cfg = s.cfg ∧ u.txSlot = s.txSlot ∧ u.expired = s.expired := by
      rcases hu with ⟨-, rfl⟩ | ⟨l, -, rfl⟩
      · exact ⟨rfl, rfl, rfl⟩
      · exact ⟨rfl, rfl, rfl⟩
    unfold txCheckDone
    rw [hc.1, hc.2.1, hc.2.2]
    split
    · split
      · exact .mk (.txTimeout hp hu ‹_› ‹_›)
      · rename_i hw he
        exact .mk (.txWaits hp hu hw (Bool.eq_false_iff.mpr he))
    · rename_i hw
      exact .mk (.txDone hp hu (Bool.eq_false_iff.mpr hw))
  · exact ⟨_, he, .txT7Line hp hu⟩

theorem txT3_answers (s : State) (w : Word) (todo : List Nat) (hp : s.phase = .txT3 w todo) :
    Answers .txSubmit s
      (syncLine .txSubmit State.flushLine (.txT3 w) (proceed .txSubmit (.txT4 w)) todo s) := by
  rcases syncLine_next .flush (i := .txSubmit) (again := .txT3 w) (done := proceed .txSubmit (.txT4 w)) (todo := todo)
    (s := s) with ⟨u, hu, he⟩ | ⟨rest, u, hu, he⟩
  · exact ⟨_, he, .txT3Ends hp hu⟩
  · exact ⟨_, he, .txT3Line hp hu⟩

theorem txT5_answers (s : State) (todo : List Nat) (hp : s.phase = .txT5 todo) :
    Answers .txSubmit s (syncLine .txSubmit State.flushLine .txT5 (proceed .txSubmit .txT6) todo s) := by
  rcases syncLine_next .flush (i := .txSubmit) (again := .txT5) (done := proceed .txSubmit .txT6) (todo := todo)
    (s := s) with ⟨u, hu, he⟩ | ⟨rest, u, hu, he⟩
  · exact ⟨_, he, .txT5Ends hp hu⟩
  · exact ⟨_, he, .txT5Line hp hu⟩

theorem txSubmit_answers (s : State) : Answers .txSubmit s (execTxSubmit s) := by
  unfold execTxSubmit
  cases hp : s.phase with
  | txT1 todo => exact txT1_answers s todo (.inl hp)
  | txT2 w => exact .mk (.txAddress hp)
  | txT3 w todo => exact txT3_answers s w todo hp
  | txT4 w => exact .mk (.txWord0 hp)
  | txT5 todo => exact txT5_answers s todo hp
  | txT6 => exact .mk (.txDoorbell hp)
  | txT7 todo => exact txT7_answers s todo hp
  | txT8 => exact .mk (.txEnds hp)
  | _ => exact txStart_answers s (by rw [hp]; rfl)

theorem rxP1_answers (s : State) (todo : List Nat) (h : RxAtP1 s todo) : Answers .rxPoll s (rxP1 todo s) := by
  rcases syncLine_next .invalidate (i := .rxPoll) (again := .rxP1) (done := rxCheckSlot) (todo := todo) (s := s) with
    ⟨u, hu, he⟩ | ⟨rest, u, hu, he⟩
  · refine (show rxP1 todo s = rxCheckSlot u from he) ▸ ?_
    have hc : u.cfg = s.cfg ∧ u.rxSlot = s.rxSlot := by
      rcases hu with ⟨-, rfl⟩ | ⟨l, -, rfl⟩
      · exact ⟨rfl, rfl⟩
      · exact ⟨rfl, rfl⟩
    unfold rxCheckSlot
    rw [hc.1, hc.2]
    split
    · split
      · exact .mk (.rxNoPacket h hu (.inr ‹_›))
      · exact .mk (.rxPacket h hu ‹_› (by simp_all))
    · exact .mk (.rxNoPacket h hu (.inl (by simp_all)))
  · exact ⟨_, he, .rxP1Line h hu⟩

theorem rxP2_answers (s v : State) (n : Nat) (b : Word) (todo : List Nat) (h : RxAtP2 s v n b todo) :
    Answers .rxPoll s (rxP2Lines n b todo v) := by
  rcases syncLine_next .invalidate (i := .rxPoll) (again := .rxP2Lines n b) (done := proceed .rxPoll (.rxP3 n b))
    (todo := todo) (s := v) with ⟨u, hu, he⟩ | ⟨rest, u, hu, he⟩
  · exact ⟨_, he, .rxP2Ends h hu⟩
  · exact ⟨_, he, .rxP2Line h hu⟩

theorem rxPoll_answers (s : State) : Answers .rxPoll s (execRxPoll s) := by
  unfold execRxPoll
  split
  · exact rxP1_answers s _ (.inl ‹_›)
  · exact rxP2_answers s _ _ _ _ (.inr ⟨_, ‹_›, rfl, rfl, rfl, rfl⟩)
  · exact rxP2_answers s _ _ _ _ (.inl ⟨‹_›, rfl⟩)
  · exact .mk (.rxPollEnds ‹_›)
  · have hl : later .rxPoll s.phase = false := by
      cases hq : s.phase <;> first | rfl | simp_all
    split
    · rename_i hr
      have hr : s.life = .running := by simpa [legal] using hr
      split
      · exact .mk (.rxPollOutstanding hl hr ‹_›)
      · exact rxP1_answers s _ (.inr ⟨hl, hr, by simp_all, rfl⟩)
    · exact .mk (.badState hl (by simp_all))

theorem rxL2_answers (s v : State) (todo : List Nat) (h : RxAtL2 s v todo) :
    Answers .rxRelease s (rxL2Lines todo v) := by
  rcases syncLine_next .flush (i := .rxRelease) (again := .rxL2Lines) (done := proceed .rxRelease .rxL3) (todo := todo)
    (s := v) with ⟨u, hu, he⟩ | ⟨rest, u, hu, he⟩
  · exact ⟨_, he, .rxL2Ends h hu⟩
  · exact ⟨_, he, .rxL2Line h hu⟩

theorem rxRelease_answers (s : State) : Answers .rxRelease s (execRxRelease s) := by
  unfold execRxRelease
  split
  · exact rxL2_answers s _ _ (.inr ⟨‹_›, rfl, rfl⟩)
  · exact rxL2_answers s _ _ (.inl ⟨‹_›, rfl⟩)
  · exact .mk (.rxReleaseEnds ‹_›)
  · have hl : later .rxRelease s.phase = false := by
      cases hq : s.phase <;> first | rfl | simp_all
    split
    · rename_i hr
      have hr : s.life = .running := by simpa [legal] using hr
      split
      · exact .mk (.rxReleaseBegins hl hr ‹_›)
      · exact .mk (.rxReleaseNone hl hr (by simp_all))
    · exact .mk (.badState hl (by simp_all))

theorem linkAdjust_answers (s : State) : Answers .linkAdjust s (execLinkAdjust s) := by
  unfold execLinkAdjust
  split
  · split
    · exact .mk (.linkNoLink ‹_› ‹_›)
    · exact .mk (.linkEnds ‹_› (by simp_all))
  · have hl : later .linkAdjust s.phase = false := by
      cases hq : s.phase <;> first | rfl | simp_all
    split
    · rename_i hr
      have hr : s.life = .running := by simpa [legal] using hr
      split
      · exact .mk (.linkBegins hl hr ‹_›)
      · exact .mk (.linkBadArg hl hr ‹_›)
    · exact .mk (.badState hl (by simp_all))

theorem devStart_answers (s : State) : Answers .devStart s (execDevStart s) := by
  unfold execDevStart
  split
  · split
    · exact .mk (.startConfigOk ‹_› ‹_›)
    · exact .mk (.startConfigBad ‹_› (by simp_all))
  · exact .mk (.startReset ‹_›)
  · split
    · split
      · exact .mk (.startResetTimeout ‹_› ‹_› (by simp_all))
      · exact .mk (.startResetWaits ‹_› ‹_› (by simp_all))
    · exact .mk (.startResetDone ‹_› (by simp_all))
  · exact .mk (.startMac ‹_›)
  · split
    · exact .mk (.startTxRing ‹_› ‹_›)
    · exact .mk (.startTxRingEnds ‹_› ‹_›)
  · split
    · exact .mk (.startRxRing ‹_› ‹_›)
    · exact .mk (.startRxRingEnds ‹_› ‹_›)
  · exact .mk (.startIer ‹_›)
  · exact .mk (.startRegisters ‹_›)
  · exact .mk (.startEnables ‹_›)
  · split
    · exact .mk (.startTransport ‹_› ‹_›)
    · exact .mk (.startLink ‹_› ‹_›)
  · split
    · exact .mk (.startNoLink ‹_› ‹_›)
    · exact .mk (.startLinkApplied ‹_› (by simp_all))
  · exact .mk (.startEnds ‹_›)
  · have hl : later .devStart s.phase = false := by
      cases hq : s.phase <;> first | rfl | simp_all
    split
    · exact .mk (.startBegins hl ‹_›)
    · exact .mk (.badState hl (by simp_all))

theorem devStop_answers (s : State) : Answers .devStop s (execDevStop s) := by
  unfold execDevStop
  split
  · exact .mk (.stopMac ‹_›)
  · exact .mk (.stopEnds ‹_›)
  · have hl : later .devStop s.phase = false := by
      cases hq : s.phase <;> first | rfl | simp_all
    split
    · exact .mk (.stopBegins hl ‹_›)
    · exact .mk (.badState hl (by simp_all))

theorem devSetMac_answers (s : State) : Answers .devSetMac s (execDevSetMac s) := by
  unfold execDevSetMac
  split
  · exact .mk (.setMacEnds ‹_›)
  · have hl : later .devSetMac s.phase = false := by
      cases hq : s.phase <;> first | rfl | simp_all
    split
    · split
      · exact .mk (.setMacBegins hl ‹_› ‹_›)
      · exact .mk (.setMacBadArg hl ‹_› ‹_›)
    · exact .mk (.badState hl (by simp_all))

/-- A phase always answers a next state, and `CommandStep` says which. -/
theorem exec_answers (i : Instr) (s : State) : Answers i s (exec i s) := by
  cases i with
  | ringInit r => exact ringInit_answers r s
  | ringAdvance r k => exact .mk .advanced
  | ringSlot r k => exact ringSlot_answers r k s
  | ringMarkEnd r k => exact ringMarkEnd_answers r k s
  | syncFlush => exact syncFlush_answers s
  | syncInvalidate => exact syncInvalidate_answers s
  | txSubmit => exact txSubmit_answers s
  | rxPoll => exact rxPoll_answers s
  | rxRelease => exact rxRelease_answers s
  | linkAdjust => exact linkAdjust_answers s
  | devStart => exact devStart_answers s
  | devStop => exact devStop_answers s
  | devSetMac => exact devSetMac_answers s

/-- Everything a phase can do. -/
theorem exec_cases {i : Instr} {s t : State} (h : exec i s = .next t) : CommandStep i s t := by
  obtain ⟨u, hu, hc⟩ := exec_answers i s
  rw [hu] at h
  cases h
  exact hc

/-- One phase of RING_INIT changes memory and cache, and at I6 the cursor (and the RX ring's record), and nothing else. -/
theorem ringInitStep_frame {r : Ring} {p : RingPhase} {s u : State} {q : Option RingPhase}
    (h : ringInitStep r p s = (u, q)) :
    (q.isSome = true ∧ u = { s with mem := u.mem, cache := u.cache }) ∨ (q = none ∧ p = .i6 ∧ u = s.rewind r) := by
  cases p with
  | i2 => cases h; exact .inl ⟨rfl, rfl⟩
  | i3 => cases r <;> cases h <;> exact .inl ⟨rfl, rfl⟩
  | i4 => cases h; exact .inl ⟨rfl, rfl⟩
  | i5 todo =>
    simp only [ringInitStep] at h
    split at h
    · cases h; exact .inl ⟨rfl, rfl⟩
    · cases h
      refine .inl ⟨?_, rfl⟩
      split <;> rfl
  | i6 => cases h; exact .inr ⟨rfl, rfl, rfl⟩

/-! ## What the parts of an outcome leave alone: everything but memory and cache -/

theorem LineOp.act_frame (o : LineOp) (s : State) (l : Nat) :
    o.act s l = { s with mem := (o.act s l).mem, cache := (o.act s l).cache } := by
  cases o <;> rfl

theorem OneLine.frame {o : LineOp} {todo rest : List Nat} {s u : State} (h : OneLine o todo rest s u) :
    ∃ m c, u = { s with mem := m, cache := c } := by
  obtain ⟨-, l, -, rfl⟩ := h
  exact ⟨_, _, o.act_frame s l⟩

theorem LastLine.frame {o : LineOp} {todo : List Nat} {s u : State} (h : LastLine o todo s u) :
    ∃ m c, u = { s with mem := m, cache := c } := by
  rcases h with ⟨-, rfl⟩ | ⟨l, -, rfl⟩
  · exact ⟨_, _, rfl⟩
  · exact ⟨_, _, o.act_frame s l⟩

theorem RxAtP2.frame {s u : State} {n : Nat} {b : Word} {todo : List Nat} (h : RxAtP2 s u n b todo) :
    ∃ m c, u = { s with mem := m, cache := c } := by
  rcases h with ⟨-, rfl⟩ | ⟨w, -, -, -, -, rfl⟩ <;> exact ⟨_, _, rfl⟩

theorem RxAtL2.frame {s u : State} {todo : List Nat} (h : RxAtL2 s u todo) :
    ∃ m c, u = { s with mem := m, cache := c } := by
  rcases h with ⟨-, rfl⟩ | ⟨-, -, rfl⟩ <;> exact ⟨_, _, rfl⟩

end Sys2Proof.Machine
end

