-- ==== Sys2Proof/Laws/PerInstr.lean ====
section
/-! SUPPORT. One statement for every command, one lemma per constructor: the word of a well-formed command belongs to its
own row of spec/opcode_table.json (30_encoding.md R122). -/

namespace Sys2Proof.Laws.EncodeRow

open Sys2Proof

/-- The encoder's word is in the command's own row of the opcode table. -/
def Statement (i : Instr) : Prop :=
  i.wellFormed = true → ∃ row ∈ opcodeTable, row.mnemonic = i.mnemonic ∧ row.holds (encode i) = true

/-- A mask that covers OP and SUB only does not see IMM. -/
theorem mask_high (h m : BitVec 16) (x : BitVec 16) : (h ++ x) &&& (m ++ 0#16) = (h &&& m) ++ 0#16 := by
  rw [BitVec.and_append]; simp

/-- The word of a RING_* command with any index, under the mask of its row. -/
theorem ring_index_row (op : Nat) (r : Ring) (index : Nat) (h : op = 2 ∨ op = 3 ∨ op = 4) :
    cmdWord op (encodeRing r) index &&& 0xFFFE0000#32 = cmdWord op 0 0 := by
  have e := mask_high (BitVec.ofNat 8 op ++ BitVec.ofNat 8 (encodeRing r)) 0xFFFE#16 (BitVec.ofNat 16 index)
  refine e.trans ?_
  rcases h with rfl | rfl | rfl <;> cases r <;> rfl

theorem ringInit (r : Ring) : Statement (.ringInit r) := by
  intro _; cases r <;> decide

theorem ringAdvance (r : Ring) (index : Nat) : Statement (.ringAdvance r index) := by
  intro _
  exact ⟨⟨"RING_ADVANCE", 0xFFFE0000#32, 0x02000000#32⟩, by decide, rfl,
    beq_iff_eq.2 (ring_index_row 2 r index (by decide))⟩

theorem ringSlot (r : Ring) (index : Nat) : Statement (.ringSlot r index) := by
  intro _
  exact ⟨⟨"RING_SLOT", 0xFFFE0000#32, 0x03000000#32⟩, by decide, rfl,
    beq_iff_eq.2 (ring_index_row 3 r index (by decide))⟩

theorem ringMarkEnd (r : Ring) (index : Nat) : Statement (.ringMarkEnd r index) := by
  intro _
  exact ⟨⟨"RING_MARK_END", 0xFFFE0000#32, 0x04000000#32⟩, by decide, rfl,
    beq_iff_eq.2 (ring_index_row 4 r index (by decide))⟩

theorem syncFlush : Statement .syncFlush := by intro _; decide

theorem syncInvalidate : Statement .syncInvalidate := by intro _; decide

theorem txSubmit : Statement .txSubmit := by intro _; decide

theorem rxPoll : Statement .rxPoll := by intro _; decide

theorem rxRelease : Statement .rxRelease := by intro _; decide

theorem linkAdjust : Statement .linkAdjust := by intro _; decide

theorem devStart : Statement .devStart := by intro _; decide

theorem devStop : Statement .devStop := by intro _; decide

theorem devSetMac : Statement .devSetMac := by intro _; decide

end Sys2Proof.Laws.EncodeRow
end

