-- ==== Sys2Proof/Laws/Rings.lean ====
section
/-! SUPPORT. The laws of the ring invariants (R33): each as a statement about slots and lines, and the ring pointer after
a slot. -/

namespace Sys2Proof

namespace Machine

/-- A property of every slot is one of each index below the capacity. -/
@[simp] theorem State.everySlot_iff (s : State) (r : Ring) (p : Nat → Bool) :
    s.everySlot r p = true ↔ ∀ i, i < s.cfg.cap r → p i = true := by
  simp [State.everySlot]

/-- A dirty line is a Valid line with its flag set. -/
theorem State.lineDirty_iff (s : State) (l : Nat) : s.lineDirty l = true ↔ ∃ bytes, s.cache.get l = some ⟨bytes, true⟩ := by
  unfold State.lineDirty
  split
  · rename_i line h
    obtain ⟨bytes, dirty⟩ := line
    simp [h]
  · rename_i h
    simp [h]

/-- An Invalid line is not dirty. -/
theorem State.lineDirty_of_none (s : State) (l : Nat) (h : s.cache.get l = none) : s.lineDirty l = false := by
  simp [State.lineDirty, h]

/-- A line that is found is listed. -/
theorem Cache.mem_of_get (c : Cache) (a : Nat) (l : CacheLine) (h : c.get a = some l) : (a, l) ∈ c := by
  induction c with
  | nil => simp at h
  | cons e rest ih =>
    obtain ⟨k, x⟩ := e
    rw [Cache.get_cons] at h
    split at h
    · simp_all
    · exact List.mem_cons_of_mem _ (ih h)

/-- In a canonical cache no listed line lies below the start. -/
theorem Cache.le_of_mem (line lo : Nat) (c : Cache) (e : Nat × CacheLine) (hc : Cache.wfFrom line lo c = true)
    (h : e ∈ c) : lo ≤ e.1 := by
  induction c generalizing lo with
  | nil => simp at h
  | cons d rest ih =>
    obtain ⟨k, x⟩ := d
    simp only [Cache.wfFrom, Bool.and_eq_true, decide_eq_true_eq] at hc
    rcases List.mem_cons.mp h with h | h
    · rw [h]
      exact hc.1.1.1.1
    · exact Nat.le_trans (Nat.le_succ_of_le hc.1.1.1.1) (ih (k + 1) hc.2 h)

/-- In a canonical cache a listed line is the one that is found. -/
theorem Cache.get_of_mem (line lo : Nat) (c : Cache) (a : Nat) (l : CacheLine) (hc : Cache.wfFrom line lo c = true)
    (h : (a, l) ∈ c) : c.get a = some l := by
  induction c generalizing lo with
  | nil => simp at h
  | cons d rest ih =>
    obtain ⟨k, x⟩ := d
    simp only [Cache.wfFrom, Bool.and_eq_true, decide_eq_true_eq] at hc
    rw [Cache.get_cons]
    rcases List.mem_cons.mp h with h | h
    · cases h
      simp
    · rw [if_neg]
      · exact ih (k + 1) hc.2 h
      · have := Cache.le_of_mem line (k + 1) rest (a, l) hc.2 h
        dsimp only at this
        omega

/-- A line of a canonical cache is an address of the 32-bit space. -/
theorem Cache.lt_of_get (line lo : Nat) (c : Cache) (a : Nat) (l : CacheLine) (hc : Cache.wfFrom line lo c = true)
    (h : c.get a = some l) : a < 2 ^ 32 := by
  induction c generalizing lo with
  | nil => simp at h
  | cons d rest ih =>
    obtain ⟨k, x⟩ := d
    simp only [Cache.wfFrom, Bool.and_eq_true, decide_eq_true_eq] at hc
    rw [Cache.get_cons] at h
    split at h
    · subst_vars
      exact hc.1.1.1.2
    · exact ih (k + 1) hc.2 h

/-- R33 (d), the writes, line by line. -/
theorem State.ringsFlushed_iff (s : State) (hs : Cache.wf s.cfg s.cache = true) :
    s.ringsFlushed = true ↔ ∀ l, s.lineDirty l = true → l ∈ s.cfg.bothRings → l ∈ s.unflushed := by
  simp only [State.ringsFlushed, List.all_eq_true, Bool.or_eq_true, Bool.not_eq_true', List.contains_eq_mem,
    decide_eq_true_eq, decide_eq_false_iff_not]
  constructor
  · intro h l hd hp
    obtain ⟨bytes, hb⟩ := (s.lineDirty_iff l).mp hd
    simpa [hp] using h _ (Cache.mem_of_get _ _ _ hb)
  · intro h e he
    obtain ⟨k, bytes, dirty⟩ := e
    cases dirty with
    | false => simp
    | true =>
      have hd := (s.lineDirty_iff k).mpr ⟨bytes, Cache.get_of_mem _ 0 _ _ _ hs he⟩
      have := h k hd
      dsimp only at *
      tauto

/-- No dirty data over the RX buffers, line by line. -/
theorem State.rxBuffersClean_iff (s : State) (hs : Cache.wf s.cfg s.cache = true) :
    s.rxBuffersClean = true ↔ ∀ l, s.lineDirty l = true → l ∉ s.cfg.rxBufLines := by
  simp only [State.rxBuffersClean, List.all_eq_true, Bool.or_eq_true, Bool.not_eq_true', List.contains_eq_mem,
    decide_eq_false_iff_not]
  constructor
  · intro h l hd
    obtain ⟨bytes, hb⟩ := (s.lineDirty_iff l).mp hd
    simpa using h _ (Cache.mem_of_get _ _ _ hb)
  · intro h e he
    obtain ⟨k, bytes, dirty⟩ := e
    cases dirty with
    | false => simp
    | true => exact .inr (h k ((s.lineDirty_iff k).mpr ⟨bytes, Cache.get_of_mem _ 0 _ _ _ hs he⟩))

/-- A store that avoids more lines avoids fewer. -/
theorem State.storeAvoids_mono (s : State) (ls ks : List Nat) (h : ∀ l ∈ ks, l ∈ ls) (hs : s.storeAvoids ls = true) :
    s.storeAvoids ks = true := by
  unfold State.storeAvoids at *
  split at hs
  · simp only [Bool.or_eq_true, Bool.not_eq_true', List.contains_eq_mem, decide_eq_false_iff_not] at hs ⊢
    exact hs.imp id fun hn hk => hn (h _ hk)
  · simp

/-- R326 (c) includes the rings. -/
theorem State.ringsLeftAlone_of_contractKept (s : State) (h : s.contractKept = true) : s.ringsLeftAlone = true :=
  s.storeAvoids_mono _ _ (fun _ hl => List.mem_append_left _ hl) h

/-- The pointer after a slot whose word 0 has the flag exactly at the end of the ring is the next slot's (R27, R33 (b)). -/
theorem nextPointer_ringPtr (c : Config) (r : Ring) (i : Nat) (w : Word) (hi : i < c.cap r)
    (hw : c.eor w = (i + 1 == c.cap r)) : nextPointer c w (c.ringPtr r 0) (c.ringPtr r i) = c.ringPtr r (c.advance r i) := by
  unfold nextPointer Config.advance
  rw [hw]
  by_cases h : i + 1 = c.cap r
  · simp [h]
  · rw [Nat.mod_eq_of_lt (by omega)]
    simp [h, Config.ringPtr, Nat.add_mul, BitVec.ofNat_add, BitVec.add_assoc]

end Machine

end Sys2Proof
end

