-- ==== Sys2Proof/Tests/Slice0.lean ====
section
/-! SUPPORT. Tests of the model, and a witness of the hypotheses of every statement that has some. Expected values come
from spec/95_test_vectors.md (the vector is named in each docstring) or from the rule named. -/

namespace Sys2Proof.Tests

open Sys2Proof Sys2Proof.Machine

set_option Elab.async false

/-! ## Helpers -/

/-- The answer is a next state that passes. -/
def answersNext (a : Answer) (p : State → Bool) : Bool :=
  match a with
  | .next t => p t
  | .fault _ => false
  | .refused _ => false

/-- The answer is a next state with this RES0 and RES1. -/
def answersResult (a : Answer) (r0 r1 : Word) : Bool := answersNext a fun t => t.op.isNone && t.res0 == r0 && t.res1 == r1

/-- An answer that passes is a next state. -/
theorem next_of_answersNext {a : Answer} {p : State → Bool} (h : answersNext a p = true) :
    ∃ t, a = .next t ∧ p t = true := by
  cases a with
  | next t => exact ⟨t, rfl, h⟩
  | fault f => exact absurd h (by simp [answersNext])
  | refused r => exact absurd h (by simp [answersNext])

/-- A memory that holds the given words, little-endian. -/
def memOf (ws : List (Word × Word)) : Memory := ws.foldl (fun m w => m.writeWord .little w.1 w.2) []

/-- The started state S0 of spec/95_test_vectors.md with further words in memory. -/
def started (ws : List (Word × Word)) : State :=
  { State.reset with
    life := .running
    txHwptr := 0x1000#32
    rxHwptr := 0x4000#32
    mac := { MacRegs.powerOn with maccr := 0x0002170F#32, nptxrBadr := 0x1000#32, rxrBadr := 0x4000#32 }
    mem := memOf ([(0x1030#32, 0x40000000#32), (0x4004#32, 0x8000#32), (0x4014#32, 0x8600#32), (0x4024#32, 0x8C00#32),
      (0x4030#32, 0x40000000#32), (0x4034#32, 0x9200#32)] ++ ws) }

/-- S0 with a command at one of its phases. -/
def running (i : Instr) (p : Phase) (ws : List (Word × Word)) : State := (started ws).atPhase i p

/-- S0 with the operands of a command. -/
def withArgs (s : State) (a b : Word) : State := { s with arg0 := a, arg1 := b }

/-- A state with a changed configuration. -/
def withCfg (s : State) (f : Config → Config) : State := { s with cfg := f s.cfg }

/-- DMA is coherent. -/
def coherentCfg (c : Config) : Config := { c with coherent := true }

/-- LINE = 64, as the coherency vectors have it. -/
def line64 (c : Config) : Config := { c with lineLog := 2 }

/-- A dirty line of 16 bytes at `a` that holds the word `v` first. -/
def dirtyLine (a : Nat) (v : Word) : Cache := [(a, ⟨wordBytes .little v ++ List.replicate 12 0#8, true⟩)]

/-- The same line clean. -/
def cleanLine (a : Nat) (v : Word) : Cache := [(a, ⟨wordBytes .little v ++ List.replicate 12 0#8, false⟩)]

/-- Stopped, with S0's memory. -/
def stoppedState : State := { started [] with life := .stopped }

/-- DEV_START at a phase: Starting, DMA disabled. -/
def starting (p : Phase) : State :=
  { (stoppedState.atPhase .devStart p) with life := .starting, mac := MacRegs.powerOn }

/-- A frame of `n` bytes. -/
def frameOf (n : Nat) (x : Word) : Frame := ⟨List.replicate n 0xAB#8, x⟩

/-! ## WellFormed -/

theorem test_advance_index_too_large_refused : (Instr.ringAdvance .tx 65536).wellFormed = false := by decide
theorem test_slot_index_too_large_refused : (Instr.ringSlot .rx 65536).wellFormed = false := by decide
theorem test_mark_end_index_too_large_refused : (Instr.ringMarkEnd .tx 65536).wellFormed = false := by decide

/-! ## Decode: words written out from R120 and R122, and the rejected words of 95_test_vectors.md -/

theorem test_decode_ring_family :
    decode 0x01010000#32 = .ok (.ringInit .rx) ∧ decode 0x02000003#32 = .ok (.ringAdvance .tx 3) ∧
    decode 0x0201FFFF#32 = .ok (.ringAdvance .rx 0xFFFF) ∧ decode 0x03010002#32 = .ok (.ringSlot .rx 2) ∧
    decode 0x04000003#32 = .ok (.ringMarkEnd .tx 3) := by decide +kernel

theorem test_decode_other_families :
    decode 0x10000000#32 = .ok .syncFlush ∧ decode 0x11000000#32 = .ok .syncInvalidate ∧
    decode 0x20000000#32 = .ok .txSubmit ∧ decode 0x30000000#32 = .ok .rxPoll ∧ decode 0x31000000#32 = .ok .rxRelease ∧
    decode 0x40000000#32 = .ok .linkAdjust ∧ decode 0x50000000#32 = .ok .devStart ∧
    decode 0x51000000#32 = .ok .devStop ∧ decode 0x52000000#32 = .ok .devSetMac := by decide +kernel

theorem test_decode_rejects :
    decode 0x00000000#32 = .error (.unassignedOp 0) ∧ decode 0x05000000#32 = .error (.unassignedOp 5) ∧
    decode 0xE0000000#32 = .error (.unassignedOp 0xE0) ∧ decode 0x01020000#32 = .error (.badSub 2) ∧
    decode 0x01000001#32 = .error (.badImm 1) ∧ decode 0x20010000#32 = .error (.badSub 1) ∧
    decode 0x30000001#32 = .error (.badImm 1) := by decide +kernel

theorem test_decodeTableWord : decodeTableWord 32 0x03010002 = some (.ringSlot .rx 2) := by decide +kernel

/-- No word belongs to two rows of the opcode table: each two rows differ in a bit that both masks cover. -/
theorem test_opcode_rows_disjoint :
    opcodeTable.Pairwise fun a b => (a.pattern ^^^ b.pattern) &&& a.mask &&& b.mask ≠ 0#32 := by decide +kernel

/-! ## Reset -/

/-- R55, under the values log entry 5 names. -/
theorem test_reset_sound : State.reset.sound = true := by decide +kernel

/-- R326 holds of CFG-A. -/
theorem test_reference_launchable : Config.reference.launchOk = true := by decide +kernel

/-! ## One phase of each command -/

/-- V1.2: I4 marks slot 3. -/
theorem test_ringInit_marks_last_slot :
    answersNext (exec (.ringInit .tx) ({ State.reset with phase := .ringInit .i4 }))
      (fun t => t.memRead 0x1030#32 == 0x40000000#32 && t.phase == .ringInit (.i5 [0x1000, 0x1010, 0x1020, 0x1030])) = true := by
  decide +kernel

/-- R-9: I3 writes the buffer addresses. -/
theorem test_ringInit_arms_rx :
    answersNext (exec (.ringInit .rx) ({ State.reset with phase := .ringInit .i3 }))
      (fun t => t.memRead 0x4034#32 == 0x9200#32 && t.memRead 0x4004#32 == 0x8000#32) = true := by decide +kernel

/-- V1.1 -/
theorem test_ringAdvance : answersResult (exec (.ringAdvance .tx 4) State.reset) 0x00000001#32 0#32 = true := by decide +kernel

/-- V1.1 -/
theorem test_ringAdvance_wraps : answersResult (exec (.ringAdvance .tx 3) State.reset) 0#32 0#32 = true := by decide +kernel

/-- R-3 -/
theorem test_ringSlot : answersResult (exec (.ringSlot .rx 2) State.reset) 0#32 0x4020#32 = true := by decide +kernel

/-- R-4 -/
theorem test_ringSlot_badArg : answersResult (exec (.ringSlot .tx 4) State.reset) 0x08000000#32 0#32 = true := by decide +kernel

/-- R-5: the cached word is marked, memory is not. -/
theorem test_ringMarkEnd :
    answersNext (exec (.ringMarkEnd .tx 3) { State.reset with phase := .markM2 })
      (fun t => t.memRead 0x1030#32 == 0x40000000#32 && t.ramWord 0x1030#32 == 0#32) = true := by decide +kernel

/-- R-7 -/
theorem test_ringMarkEnd_badState : answersResult (exec (.ringMarkEnd .tx 3) (started [])) 0x09000000#32 0#32 = true := by
  decide +kernel

/-- C-4: the lines of the range. -/
theorem test_syncFlush_lines :
    answersNext (exec .syncFlush (withArgs (withCfg State.reset line64) 0x103C#32 8#32))
      (fun t => t.phase == .flushF2 [0x1000, 0x1040]) = true := by decide +kernel

/-- C-1, with a line of 16 bytes. -/
theorem test_syncFlush_line :
    answersNext (exec .syncFlush { running .syncFlush (.flushF2 [0x1010]) [] with cache := dirtyLine 0x1010 0xB000003C#32 })
      (fun t => t.op.isNone && t.ramWord 0x1010#32 == 0xB000003C#32 && t.cache == []) = true := by decide +kernel

/-- C-3, with a line of 16 bytes. -/
theorem test_syncInvalidate_line :
    answersNext (exec .syncInvalidate { running .syncInvalidate (.invalidateV2 [0x2000]) [(0x2000#32, 0x55555555#32)] with
      cache := dirtyLine 0x2000 0xAAAAAAAA#32 })
      (fun t => t.op.isNone && t.memRead 0x2000#32 == 0x55555555#32) = true := by decide +kernel

/-- C-6 -/
theorem test_syncInvalidate_wraps :
    answersResult (exec .syncInvalidate (withArgs State.reset 0xFFFFFFF0#32 0x20#32)) 0x08000000#32 0#32 = true := by
  decide +kernel

/-- V1.5: T4 publishes word 0. -/
theorem test_txSubmit_publishes :
    answersNext (exec .txSubmit (withArgs (running .txSubmit (.txT4 0#32) []) 0x2000#32 0x2A#32))
      (fun t => t.memRead 0x1000#32 == 0xB000003C#32 && t.phase == .txT5 [0x1000]) = true := by decide +kernel

/-- V1.3: the last line of T1's Invalidate and the ownership test are one step. -/
theorem test_txSubmit_noDesc :
    answersResult (exec .txSubmit (withArgs (running .txSubmit (.txT1 [0x1000]) [(0x1000#32, 0xB000003C#32)])
      0x2000#32 0x2A#32)) 0x01000000#32 0#32 = true := by decide +kernel

/-- X-8: bit 23 is no error flag. -/
theorem test_rxPoll_packet :
    answersNext (exec .rxPoll (started [(0x4000#32, 0x808005EA#32)]))
      (fun t => t.phase == .rxP2 0x808005EA#32) = true := by decide +kernel

/-- V1.7 -/
theorem test_rxPoll_crc_error :
    answersResult (exec .rxPoll (started [(0x4000#32, 0x80080040#32)])) 0x03000000#32 0#32 = true := by decide +kernel

/-- L-3: only OWN is cleared, and with one line a slot the Flush is in the same step. -/
theorem test_rxRelease_word0 :
    answersNext (exec .rxRelease { running .rxRelease .rxL2 [(0x4030#32, 0xC0000040#32)] with
      rxOut := true, rxOutSlot := 3, rxCur := 3 })
      (fun t => t.ramWord 0x4030#32 == 0x40000040#32 && t.phase == .rxL3) = true := by decide +kernel

/-- L-3: the cursor wraps. -/
theorem test_rxRelease_cursor :
    answersNext (exec .rxRelease { running .rxRelease .rxL3 [] with rxOut := true, rxOutSlot := 3, rxCur := 3 })
      (fun t => t.op.isNone && t.rxCur == 0 && !t.rxOut) = true := by decide +kernel

/-- K-3 -/
theorem test_linkAdjust_100_full :
    answersResult (exec .linkAdjust { running .linkAdjust (.linkK2 ⟨.mbit100, true, true⟩) [] with
      mac := { MacRegs.powerOn with maccr := 0x0002150F#32 } }) 0#32 0x000A150F#32 = true := by decide +kernel

/-- V1.8 and K-8: RMII is not gigabit-capable. -/
theorem test_linkAdjust_not_gigabit :
    answersResult (exec .linkAdjust (withCfg { running .linkAdjust (.linkK2 ⟨.mbit1000, true, true⟩) [] with
      mac := { MacRegs.powerOn with maccr := 0x0002150F#32 } } fun c => { c with ifmode := 1 })) 0#32 0x0002150F#32 = true := by
  decide +kernel

/-- S-2: S10 and S12 keep every other bit. -/
theorem test_devStart_enables :
    answersNext (exec .devStart { starting .devS10 with mac := { MacRegs.powerOn with maccr := 0x12345670#32 } })
      (fun t => t.mac.maccr == 0x1236577F#32 && t.phase == .devS11) = true := by decide +kernel

/-- S-3 -/
theorem test_devStart_config :
    answersNext (exec .devStart (withCfg (stoppedState.atPhase .devStart .devS2) fun c => { c with txCap := 3 }))
      (fun t => t.res0 == 0x05000000#32 && t.life == .error) = true := by decide +kernel

/-- P-1 -/
theorem test_devStop :
    answersNext (exec .devStop (running .devStop .stopX2 [])) (fun t => t.mac.maccr == 0x00021700#32) = true := by
  decide +kernel

/-- P-2 -/
theorem test_devStop_clears_all :
    answersNext (exec .devStop (withCfg (running .devStop .stopX2 []) fun c => { c with stopClearsAll := true }))
      (fun t => t.mac.maccr == 0#32) = true := by decide +kernel

/-- M-1 -/
theorem test_devSetMac :
    answersNext (exec .devSetMac (withArgs (running .devSetMac .setMacA2 []) 0x00000200#32 0x5E102030#32))
      (fun t => t.macAddr == 0x02005E102030#48 && t.mac.macMadr == 0x200#32 && t.mac.macLadr == 0x5E102030#32) = true := by
  decide +kernel

/-- M-2 -/
theorem test_devSetMac_badArg :
    answersResult (exec .devSetMac (withArgs State.reset 0x00010200#32 0#32)) 0x08000000#32 0#32 = true := by decide +kernel

/-! ## The other agents -/

/-- The tx_word0 table: only EOR of a completed word is kept. -/
theorem test_txWord0 :
    Config.reference.txWord0 0x3FFFC03C#32 100 = 0xB0000064#32 ∧ Config.reference.txWord0 0x40000064#32 1514 = 0xF00005EA#32 := by
  decide +kernel

/-- TD-2 -/
theorem test_txDma_completes :
    let t := txDmaTurn 0 0xFFFFFFFF#32 [] { started [(0x1030#32, 0xF000003C#32)] with txHwptr := 0x1030#32, txd := .sent 0xF000003C#32 }
    t.ramWord 0x1030#32 = 0x7FFFC03C#32 ∧ t.txHwptr = 0x1000#32 ∧ t.txd = .idle := by decide +kernel

/-- TD-4 -/
theorem test_txDma_drops_kick :
    (txDmaTurn 0 0#32 [] { started [] with txHwptr := 0x1010#32, txKick := true }).txKick = false := by decide +kernel

/-- XD-3 -/
theorem test_rxDma_delivers :
    let t := rxDmaTurn 0 { started [] with rxHwptr := 0x4030#32, rxd := .written 0x40000000#32 (frameOf 64 0xFFFFFFFF#32) }
    t.ramWord 0x4030#32 = 0xFFFFC040#32 ∧ t.rxHwptr = 0x4000#32 := by decide +kernel

/-- XD-4 -/
theorem test_wire_drops :
    wireTurn (frameOf 64 0#32) (started [(0x4000#32, 0x80000040#32)]) = started [(0x4000#32, 0x80000040#32)] := by decide +kernel

/-- Z-1 -/
theorem test_mac_completes_reset :
    let t := macTurn { MacRegs.powerOn with maccr := 0x8002170F#32 } 5#32 6#32
      { started [] with macRst := true, txKick := true, txd := .sent 0xB000003C#32 }
    t.regRead .maccr = 0x00021700#32 ∧ t.txd = .idle ∧ t.txKick = false := by decide +kernel

/-- C-2, R169: a fill takes memory's bytes, and the next CPU read returns them. -/
theorem test_cache_fill :
    (cacheFillTurn 0x4008#32 (started [])).memRead 0x4004#32 = 0x8000#32 := by decide +kernel

/-- R32, in T5 of a slot that was published early: hardware's while memory says so, and done once the TX DMA agent has
cleared OWN; a line that is still dirty is the slot being filled. -/
theorem test_txSlotState_T5 :
    (running .txSubmit (.txT5 [0x1000]) [(0x1000#32, 0xB000003C#32)]).txSlotState 0 = .hw ∧
    (running .txSubmit (.txT5 [0x1000]) []).txSlotState 0 = .done ∧
    ({ running .txSubmit (.txT5 [0x1000]) [] with cache := dirtyLine 0x1000 0xB000003C#32 }).txSlotState 0 = .filling := by
  decide +kernel

/-- R9 with another DESC_ALIGN (D47): 32 makes a DESC_SIZE of 16 a configuration error. -/
theorem test_descAlign : ({ Config.reference with descAlign := 32 }).wellFormed = false := by decide +kernel

/-! ## Witnesses: for each statement with hypotheses, values that meet all of them, at the edges where a clause has a
range -/

/-- A state whose next step is the given turn. -/
def nextIs (t : Turn) (s : State) : State := { s with agenda := [t] }

/-- A software turn that answers a PHY_STARTUP with TRANSPORT. -/
def softwareTurnOf (pick : Nat) : Turn := .software pick .transport

theorem witness_EncodeThenDecode :
    (Instr.ringAdvance .rx 65535).wellFormed = true ∧ (Instr.ringSlot .tx 65535).wellFormed = true ∧
    (Instr.ringMarkEnd .tx 0).wellFormed = true ∧ Instr.devSetMac.wellFormed = true := by decide

theorem witness_DecodeThenEncode : decode 0x0201FFFF#32 = .ok (.ringAdvance .rx 65535) := by decide +kernel

theorem witness_IllegalCommands :
    decode 0x01020000#32 = .error (.badSub 2) ∧ (started []).busy = false ∧ (started []).op = none ∧
    (started []).phase = .first := by decide +kernel

theorem witness_StepRunsTheCommand :
    let s := { nextIs (softwareTurnOf 3) (started []) with requests := [.writeCmd 0x30000000#32] }
    (s.nextTurn = .software 3 .transport ∧ s.op = none ∧ s.busy = false ∧
      s.takeTurn.nextRequest = .writeCmd 0x30000000#32 ∧ decode 0x30000000#32 = .ok .rxPoll ∧ s.busy = false) ∧
    (running .txSubmit .txT6 []).busy = true ∧ BitVec.ofNat 32 (4 * (0x3FFFFFFF#30).toNat) = 0xFFFFFFFC#32 ∧
    (nextIs (softwareTurnOf 3) (running .txSubmit .txT6 [])).nextTurn = .software 3 .transport ∧
    (nextIs (softwareTurnOf 3) (running .txSubmit .txT6 [])).op = some .txSubmit := by decide +kernel

theorem witness_StepRunsTheFetchWord : decode 0x52000000#32 = .ok .devSetMac := by decide +kernel

theorem witness_StepRunsTheAgents :
    (nextIs (.txDma 0 0#32 []) State.reset).nextTurn = .txDma 0 0#32 [] ∧
    (nextIs (.wire (frameOf 1 0#32)) State.reset).nextTurn = .wire (frameOf 1 0#32) ∧
    (nextIs (.rxDma 0) State.reset).nextTurn = .rxDma 0 ∧
    (nextIs (.cacheWriteBack 0#32 true) State.reset).nextTurn = .cacheWriteBack 0#32 true ∧
    (nextIs (.cacheFill 0#32) State.reset).nextTurn = .cacheFill 0#32 ∧
    (nextIs (.cacheDrop 0#32) State.reset).nextTurn = .cacheDrop 0#32 ∧
    (nextIs (.mac MacRegs.powerOn 0#32 0#32) State.reset).nextTurn = .mac MacRegs.powerOn 0#32 0#32 ∧
    (nextIs .timer State.reset).nextTurn = .timer := by decide +kernel

theorem witness_PowerOnSound : Config.reference.wellFormed = true := by decide +kernel

/-- For StepKeepsSound, StepKeepsConfiguration and StepNeverStops: a running TX_SUBMIT at its doorbell phase. -/
theorem witness_StepKeepsSound :
    (nextIs (softwareTurnOf 0) (running .txSubmit .txT6 [])).sound = true ∧
    ∃ t, step (nextIs (softwareTurnOf 0) (running .txSubmit .txT6 [])) = .next t ∧ t.txKick = true :=
  ⟨by decide +kernel, next_of_answersNext (by decide +kernel)⟩

theorem witness_StepNeverStops : State.reset.seqOk = true ∧ (running .devStop .stopX3 []).seqOk = true := by decide +kernel

/-- For StatusesOfCommands and CommandFrame: an answer that ends the command, and one that goes on. -/
theorem witness_CommandFrame :
    (∃ t, exec .rxPoll (started []) = .next t ∧ t.op.isNone = true) ∧
    ∃ t, exec .devStop (started []) = .next t ∧ t.op.isSome = true :=
  ⟨next_of_answersNext (by decide +kernel), next_of_answersNext (by decide +kernel)⟩

theorem witness_LegalityTable :
    (started []).phase = .first ∧ (started []).life ∉ yesStates .devStart ∧ (started []).life ∈ yesStates .rxPoll ∧
    stoppedState.phase = .first ∧ stoppedState.life ∈ yesStates (.ringInit .tx) ∧
    stoppedState.life ∉ yesStates .rxRelease := by decide +kernel

/-- A Flush of a dirty line, which stores a line, and T4 of TX_SUBMIT when DMA is coherent, which stores a word. -/
theorem witness_MemoryFrame :
    (let s := { running .syncFlush (.flushF2 [0x1000]) [] with cache := dirtyLine 0x1000 5#32 }
     s.storeOk = true ∧ memStores .syncFlush s = [(0x1000#32, 16)] ∧ ∃ t, exec .syncFlush s = .next t ∧ t.op.isNone = true) ∧
    (let s := withCfg (running .txSubmit (.txT4 0#32) []) coherentCfg
     s.storeOk = true ∧ memStores .txSubmit s = [(0x1000#32, 4)] ∧ ∃ t, exec .txSubmit s = .next t ∧ t.op.isSome = true) :=
  ⟨⟨by decide +kernel, by decide +kernel, next_of_answersNext (by decide +kernel)⟩,
    ⟨by decide +kernel, by decide +kernel, next_of_answersNext (by decide +kernel)⟩⟩

theorem witness_LineSteps :
    linesLeft .syncFlush (.flushF2 [0x1000, 0x1010]) = some (.flush, [0x1000, 0x1010], .flushF2) ∧
    linesLeft .txSubmit (.txT7 [0x1000]) = some (.invalidate, [0x1000], .txT7) ∧ 0x1010 ∈ [0x1000, 0x1010] ∧
    takePick 1 [0x1000, 0x1010] = some (0x1010, [0x1000]) ∧ takePick 0 [0x1000, 0x1010] = some (0x1000, [0x1010]) ∧
    (coherentCfg Config.reference).coherent = true := ⟨rfl, rfl, by decide, rfl, rfl, rfl⟩

/-- Both DMA kinds, at the last word of memory; the bytes next to the word are the first it leaves alone. -/
theorem witness_CpuAccess :
    (started []).storeOk = true ∧ (withCfg (started []) coherentCfg).storeOk = true ∧
    (0xFFFFFFFC#32).toNat % 4 = 0 ∧ (started []).cfg.coherent = false ∧ (started []).cfg.toDmaMap = [] ∧
    4 ≤ (0x00000000#32 - 0xFFFFFFFC#32).toNat ∧ 4 ≤ (0xFFFFFFFB#32 - 0xFFFFFFFC#32).toNat := by decide +kernel

theorem witness_RegisterAccess :
    MacReg.aptc ≠ .nptxpd ∧ MacReg.aptc ≠ .maccr ∧ (started []).mac.maccr.getLsbD 31 = false ∧
    regOffset .maccr = regOffset .maccr := by decide +kernel

theorem witness_CacheAgentSteps :
    (withCfg (started []) coherentCfg).cfg.coherent = true ∧ (started []).cfg.coherent = false ∧
    ({ started [] with cache := dirtyLine 0x1000 5#32 }).cache.get (Config.reference.lineOf (0x100F#32).toNat) =
      some ⟨wordBytes .little 5#32 ++ List.replicate 12 0#8, true⟩ ∧
    ({ started [] with cache := cleanLine 0x1000 5#32 }).cache.get (Config.reference.lineOf (0x1000#32).toNat) =
      some ⟨wordBytes .little 5#32 ++ List.replicate 12 0#8, false⟩ ∧
    (started []).cache.get (Config.reference.lineOf (0x1000#32).toNat) = none ∧
    0x1010 ≠ Config.reference.lineOf (0x100F#32).toNat := by decide +kernel

/-- The last slot and the first index past the ring. -/
theorem witness_RingIndexResults :
    3 < State.reset.cfg.cap .rx ∧ State.reset.cfg.cap .rx ≤ 4 ∧ State.reset.cfg.wellFormed = true ∧
    State.reset.cfg.descAlign = 16 := by decide +kernel

theorem witness_RingMarkEndResult :
    (started []).phase = .first ∧ (started []).life ∉ [Life.stopped, .error] ∧ stoppedState.phase = .first ∧
    stoppedState.life ∈ [Life.stopped, .error] ∧ 2 + 1 ≠ stoppedState.cfg.cap .tx ∧ 3 + 1 = stoppedState.cfg.cap .tx ∧
    (stoppedState.atPhase (.ringMarkEnd .tx 3) .markM2).phase = .markM2 ∧
    (stoppedState.atPhase (.ringMarkEnd .tx 3) .markM2).storeOk = true ∧ stoppedState.cfg.wellFormed = true ∧
    stoppedState.cfg.descAlign = 16 := by decide +kernel

theorem witness_RingInitPhases :
    stoppedState.phase = .first ∧ (stoppedState.atPhase (.ringInit .rx) (.ringInit .i2)).phase = .ringInit .i2 ∧
    (stoppedState.atPhase (.ringInit .rx) (.ringInit .i3)).phase = .ringInit .i3 ∧
    (stoppedState.atPhase (.ringInit .rx) (.ringInit .i4)).phase = .ringInit .i4 ∧
    (stoppedState.atPhase (.ringInit .rx) (.ringInit (.i5 []))).phase = .ringInit (.i5 []) ∧
    (stoppedState.atPhase (.ringInit .rx) (.ringInit .i6)).phase = .ringInit .i6 := by decide +kernel

theorem witness_RingInitAlone :
    stoppedState.cfg.launchOk = true ∧ stoppedState.cfg.toDmaMap = [] ∧ stoppedState.storeOk = true ∧
    stoppedState.phase = .first ∧ stoppedState.life ∈ [Life.stopped, .error] ∧ 3 < stoppedState.cfg.cap .rx ∧
    3 < stoppedState.cfg.descWords ∧
    0x1030 ∈ stoppedState.cfg.lines (stoppedState.cfg.base .tx).toNat (stoppedState.cfg.cap .tx * stoppedState.cfg.descSize) ∧
    stoppedState.cfg.lineOf (0x1040#32).toNat ∉
      stoppedState.cfg.lines (stoppedState.cfg.base .tx).toNat (stoppedState.cfg.cap .tx * stoppedState.cfg.descSize) := by
  decide +kernel

/-- The premises of StepKeepsEndMarks. -/
def marksPremises (s : State) : Bool :=
  s.cfg.plainLaunch && s.sound && s.ringsStand && s.ringsLeftAlone && s.ringsMarked

/-- The premises of StepKeepsSlots, of SlotTransitions and, with `State.txInStep`, of TxPointerAgrees. -/
def slotsPremises (s : State) : Bool :=
  s.wellStarted && s.ringsLeftAlone && s.ringsMarked && s.ringsFlushed && s.txSlotsOk && s.cfg.rxSlotsApart && s.rxSlotsOk

/-- RING_MARK_END in Stopped, D4 at the last slot, and T4 when DMA is coherent: three writers of a word 0. -/
theorem witness_StepKeepsEndMarks :
    (let s := nextIs (softwareTurnOf 0) (stoppedState.atPhase (.ringMarkEnd .tx 3) .markM2)
     marksPremises s = true ∧ ∃ t, step s = .next t ∧ (!t.cache.isEmpty) = true) ∧
    (let s := nextIs (.txDma 0 0xFFFFFFFF#32 []) { started [(0x1030#32, 0xF000003C#32)] with
       txCur := 3, txHwptr := 0x1030#32, txd := .sent 0xF000003C#32 }
     marksPremises s = true ∧ ∃ t, step s = .next t ∧ (t.txHwptr == 0x1000#32) = true) ∧
    (let s := nextIs (softwareTurnOf 0) (withCfg (running .txSubmit (.txT4 0#32) []) coherentCfg)
     marksPremises s = true ∧ ∃ t, step s = .next t ∧ (t.ramWord 0x1000#32 == 0xB000003C#32) = true) :=
  ⟨⟨by decide +kernel, next_of_answersNext (by decide +kernel)⟩, ⟨by decide +kernel, next_of_answersNext (by decide +kernel)⟩,
    ⟨by decide +kernel, next_of_answersNext (by decide +kernel)⟩⟩

/-- R144: RING_MARK_END is past M1 only at the last slot, so a state past M1 with another index is no state of a run. -/
theorem test_markM2_last_slot_only :
    (stoppedState.atPhase (.ringMarkEnd .tx 3) .markM2).sound = true ∧
    (stoppedState.atPhase (.ringMarkEnd .tx 0) .markM2).sound = false := by decide +kernel

/-- For the second clause of StepKeepsSlots: a store next to the last RX buffer keeps the contract of R326 (c) and makes a
line dirty; one into a buffer's last line, or into a ring, breaks it. -/
theorem witness_StepKeepsSlots_buffers :
    (let s := { nextIs (softwareTurnOf 0) (started []) with requests := [.store 0x2600#30 5#32] }
     s.cfg.launchOk = true ∧ s.sound = true ∧ s.contractKept = true ∧ s.rxBuffersClean = true ∧
     answersNext (step s) (fun t => t.lineDirty 0x9800 && t.rxBuffersClean) = true) ∧
    ({ nextIs (softwareTurnOf 0) (started []) with requests := [.store 0x25FF#30 5#32] }).contractKept = false ∧
    ({ nextIs (softwareTurnOf 0) (started []) with requests := [.store 0x100F#30 5#32] }).contractKept = false ∧
    ({ nextIs (softwareTurnOf 0) (started []) with requests := [.store 0x100F#30 5#32] }).ringsLeftAlone = false := by
  decide +kernel

/-- A step of the given turn, from a state that meets the premises, takes slot 0 of the TX ring from one state to
another. -/
def txMoves (turn : Turn) (s : State) (x y : TxSlot) : Bool :=
  slotsPremises (nextIs turn s) && s.txSlotState 0 == x &&
    answersNext (step (nextIs turn s)) fun t => t.txSlotState 0 == y

/-- The same for slot 0 of the RX ring. -/
def rxMoves (turn : Turn) (s : State) (x y : RxSlot) : Bool :=
  slotsPremises (nextIs turn s) && s.rxSlotState 0 == x &&
    answersNext (step (nextIs turn s)) fun t => t.rxSlotState 0 == y

/-- For StepKeepsSlots, SlotTransitions and TxPointerAgrees: one step for each transition of R32. -/
theorem witness_SlotTransitions_tx :
    txMoves (softwareTurnOf 0) (running .txSubmit (.txT1 [0x1000]) []) .free .filling = true ∧
    txMoves (softwareTurnOf 0) { running .txSubmit (.txT5 [0x1000]) [] with cache := dirtyLine 0x1000 0xB000003C#32 }
      .filling .hw = true ∧
    txMoves (.txDma 0 0#32 []) { running .txSubmit .txT6 [(0x1000#32, 0xB000003C#32)] with txd := .sent 0xB000003C#32 }
      .hw .done = true ∧
    txMoves (softwareTurnOf 0) { running .txSubmit .txT8 [] with txHwptr := 0x1010#32 } .done .free = true ∧
    txMoves (softwareTurnOf 0) { running .txSubmit (.txT7 [0x1000]) [(0x1000#32, 0xB000003C#32)] with expired := true }
      .hw .stuck = true ∧
    txMoves (.txDma 0 0#32 []) { started [(0x1000#32, 0xB000003C#32)] with txd := .sent 0xB000003C#32 }
      .stuck .free = true := by decide +kernel

/-- One step for each transition of R34, and the delivery between RX_RELEASE's Flush and L3. -/
theorem witness_SlotTransitions_rx :
    rxMoves (.rxDma 0) { started [] with rxd := .written 0#32 (frameOf 64 0#32) } .armed .ready = true ∧
    rxMoves (.rxDma 0) { started [] with rxd := .written 0#32 (frameOf 64 0x00080000#32) } .armed .bad = true ∧
    rxMoves (softwareTurnOf 0) (running .rxPoll (.rxP3 64 0x8000#32) [(0x4000#32, 0x80000040#32)]) .ready .held = true ∧
    rxMoves (softwareTurnOf 0) { running .rxRelease .rxL3 [] with rxOut := true } .held .armed = true ∧
    rxMoves (softwareTurnOf 0) { running .rxRelease .rxL3 [(0x4000#32, 0x80000040#32)] with rxOut := true }
      .held .ready = true ∧
    rxMoves (softwareTurnOf 0) { running .rxRelease .rxL3 [(0x4000#32, 0x80080040#32)] with rxOut := true }
      .held .bad = true := by decide +kernel

/-- The agreement before and after the agent completes a slot, at a timeout, and with no TX_SUBMIT running. -/
theorem witness_TxPointerAgrees :
    (running .txSubmit .txT6 [(0x1000#32, 0xB000003C#32)]).txInStep = true ∧
    ({ running .txSubmit .txT8 [] with txHwptr := 0x1010#32 }).txInStep = true ∧
    (let s := nextIs (softwareTurnOf 0) { running .txSubmit (.txT7 [0x1000]) [(0x1000#32, 0xB000003C#32)] with expired := true }
     slotsPremises s = true ∧ s.txInStep = true ∧
     answersNext (step s) (fun t => t.op.isNone && t.statusCode == 0x02#8 && !t.txInStep) = true) ∧
    (started []).txInStep = true ∧ (started []).txAgree = true ∧ (started []).op ≠ some .txSubmit ∧
    (∀ i, i < (started []).cfg.txCap → (started []).txSlotState i ≠ .stuck) := by decide +kernel

/-- C-6 and C-7 are the two sides of the wrap. -/
theorem witness_SyncPhases :
    (withArgs State.reset 0xFFFFFFF0#32 0x10#32).phase = .first ∧
    ¬ 2 ^ 32 < (withArgs State.reset 0xFFFFFFF0#32 0x10#32).arg0.toNat + (withArgs State.reset 0xFFFFFFF0#32 0x10#32).arg1.toNat ∧
    2 ^ 32 < (withArgs State.reset 0xFFFFFFF0#32 0x11#32).arg0.toNat + (withArgs State.reset 0xFFFFFFF0#32 0x11#32).arg1.toNat ∧
    (running .syncFlush (.flushF2 []) []).phase = .flushF2 [] ∧
    (running .syncInvalidate (.invalidateV2 []) []).phase = .invalidateV2 [] := by decide +kernel

theorem witness_LinesOfRange : 0 < 8 ∧ (line64 Config.reference).lines 0x103C 8 = [0x1000, 0x1040] := by decide +kernel

theorem witness_LineOperations :
    let s := { started [] with cache := dirtyLine 0x1000 5#32 }
    s.storeOk = true ∧ s.cfg.line ≤ 2 ^ 32 ∧ 15 < s.cfg.line ∧ 0x1010 ≠ 0x1000 ∧
    s.cache.get 0x1000 = some ⟨wordBytes .little 5#32 ++ List.replicate 12 0#8, true⟩ ∧ s.cache.get 0x1010 = none := by
  decide +kernel

/-- A dirty line in the range, which ends at the top of memory. -/
theorem witness_SyncAlone :
    let s := withArgs { started [] with cache := dirtyLine 0xFFFFFFF0 5#32 } 0xFFFFFFF8#32 8#32
    s.phase = .first ∧ s.storeOk = true ∧ s.cfg.coherent = false ∧ s.cfg.toDmaMap = [] ∧ s.cfg.line ≤ 2 ^ 32 ∧
    s.arg0.toNat + s.arg1.toNat = 2 ^ 32 ∧ 0xFFFFFFF0 ∈ s.cfg.lines s.arg0.toNat s.arg1.toNat ∧
    s.cfg.lineOf (0xFFFFFFEF#32).toNat ∉ s.cfg.lines s.arg0.toNat s.arg1.toNat := by decide +kernel

/-- V1.5's lengths 59 and 60 are the two sides of the clauses. -/
theorem witness_PaddedLength :
    Config.reference.minFrame = 60 ∧ 59 < 60 ∧ 60 ≤ 60 ∧ (withArgs State.reset 0#32 59#32).cfg = Config.reference ∧
    (withArgs State.reset 0#32 59#32).arg1.toNat = 59 := by decide +kernel

/-- For TxWord0 and Word0Writers: the largest length, and both values of the old EOR under both kinds of profile. -/
theorem witness_TxWord0 :
    Config.reference.layoutFits = true ∧ ({ Config.reference with profile := .legacy }).layoutFits = true ∧
    16383 ≤ Config.reference.lenMax ∧ Config.reference.layout = Layout.reference ∧
    Config.reference.eor 0x40000000#32 = true ∧ Config.reference.eor 0#32 = false ∧
    ({ Config.reference with profile := .legacy }).eor 0x8000#32 = true := by decide +kernel

theorem witness_TxSubmitPhases_first :
    stoppedState.phase = .first ∧ stoppedState.life ≠ .running ∧ (started []).phase = .first ∧ (started []).life = .running ∧
    (started []).cfg.lenMax < (withArgs (started []) 0x2000#32 16384#32).txLen ∧
    (withArgs (started []) 0x2000#32 16383#32).txLen ≤ (started []).cfg.lenMax ∧
    2 ^ 32 < (0xFFFFFFC5#32).toNat + (withArgs (started []) 0xFFFFFFC5#32 60#32).txLen ∧
    (0xFFFFFFC4#32).toNat + (withArgs (started []) 0xFFFFFFC4#32 60#32).txLen ≤ 2 ^ 32 ∧
    (running .txSubmit (.txT1 []) []).phase = .txT1 [] ∧
    (started []).cfg.own ((running .txSubmit (.txT1 []) []).memRead 0x1000#32) = false ∧
    (started []).cfg.own ((running .txSubmit (.txT1 []) [(0x1000#32, 0xB000003C#32)]).memRead 0x1000#32) = true := by
  decide +kernel

theorem witness_TxSubmitPhases :
    (running .txSubmit (.txT2 0#32) []).phase = .txT2 0#32 ∧ (running .txSubmit (.txT3 0#32 []) []).phase = .txT3 0#32 [] ∧
    (running .txSubmit (.txT4 0#32) []).phase = .txT4 0#32 ∧ (running .txSubmit (.txT5 []) []).phase = .txT5 [] ∧
    (running .txSubmit .txT6 []).phase = .txT6 ∧ (running .txSubmit .txT8 []).phase = .txT8 := by decide +kernel

theorem witness_BoundedWaits :
    (running .txSubmit .txT6 []).phase = .txT6 ∧ (running .txSubmit (.txT7 []) []).phase = .txT7 [] ∧
    (running .txSubmit (.txT7 []) []).cfg.own ((running .txSubmit (.txT7 []) []).memRead 0x1000#32) = false ∧
    (let s := { running .txSubmit (.txT7 []) [(0x1000#32, 0xB000003C#32)] with expired := true }
     s.cfg.own (s.memRead s.txSlot) = true ∧ s.expired = true) ∧
    (let s := running .txSubmit (.txT7 []) [(0x1000#32, 0xB000003C#32)]
     s.cfg.own (s.memRead s.txSlot) = true ∧ s.expired = false) ∧
    (starting .devS3).phase = .devS3 ∧ (starting .devS4).phase = .devS4 ∧
    ((starting .devS4).regRead .maccr).getLsbD 31 = false ∧
    (({ starting .devS4 with macRst := true }).regRead .maccr).getLsbD 31 = true ∧
    (starting .devS4).cfg.resetBounded = true ∧ ({ starting .devS4 with expired := true }).expired = true := by decide +kernel

theorem witness_TxPublishes :
    let s := withArgs (started []) 0x2000#32 42#32
    s.cfg.launchOk = true ∧ s.cfg.toDmaMap = [] ∧ s.storeOk = true ∧ s.phase = .first ∧ s.life = .running ∧
    s.txCur < s.cfg.txCap ∧ s.txLen ≤ s.cfg.lenMax ∧ s.arg0.toNat + s.txLen ≤ 2 ^ 32 ∧
    s.cfg.own (s.ramWord s.txSlot) = false ∧
    (∀ l ∈ s.cfg.lines s.arg0.toNat s.txLen, l ∉ s.cfg.lines s.txSlot.toNat s.cfg.descSize) ∧ 59 < s.txLen ∧
    3 < s.cfg.descWords ∧ 3 ≠ s.cfg.bufWord := by decide +kernel

/-- A frame of two bytes, and one of none. -/
theorem witness_TxDmaSendsTheFrame :
    (let s := { started [(0x1000#32, 0xB0000002#32), (0x1004#32, 0x2000#32)] with txKick := true }
     s.cfg.layoutFits = true ∧ s.storeOk = true ∧ s.txEnabled = true ∧ s.txd = .idle ∧ s.txKick = true ∧
     s.cfg.own (s.dmaRead s.txHwptr) = true ∧
     [(0, 0#32, []), (0, 0#32, []), (1, 0#32, []), (0, 0#32, []), (0, 0#32, ([] : List (Nat × Word)))].length =
       max (s.cfg.len (s.dmaRead s.txHwptr)) 1 + 3) ∧
    (let s := { started [(0x1000#32, 0xB0000000#32)] with txKick := true }
     s.cfg.own (s.dmaRead s.txHwptr) = true ∧ max (s.cfg.len (s.dmaRead s.txHwptr)) 1 + 3 = 4) := by decide +kernel

theorem witness_DmaAgentsQuiet :
    State.reset.txEnabled = false ∧ (started []).txEnabled = true ∧ (started []).txd = .idle ∧ (started []).txKick = false ∧
    State.reset.rxEnabled = false ∧ ({ started [] with rxd := .fetched 0#32 (frameOf 1 0#32) }).rxd ≠ .idle ∧
    (started [(0x4000#32, 0x80000040#32)]).cfg.own ((started [(0x4000#32, 0x80000040#32)]).dmaRead 0x4000#32) = true ∧
    (starting .devS5).sound = true ∧ (starting (.devS6 .i2)).sound = true ∧ (starting .devS10).sound = true := by decide +kernel

/-- TD-2, XD-3 and a write-back change memory. -/
theorem witness_AgentMemoryFrame :
    (let s := { started [(0x1030#32, 0xF000003C#32)] with txHwptr := 0x1030#32, txd := .sent 0xF000003C#32 }
     (txDmaTurn 0 0xFFFFFFFF#32 [] s).mem.read 0x1033 ≠ s.mem.read 0x1033) ∧
    (let s := { started [] with rxd := .addressed 0#32 (frameOf 1 0#32) 0x8000#32 [0] }
     s.dmaOk = true ∧ (rxDmaTurn 0 s).mem.read 0x8000 ≠ s.mem.read 0x8000) ∧
    (let s := { started [] with cache := dirtyLine 0x1000 5#32 }
     s.storeOk = true ∧ (cacheWriteBackTurn 0x100F#32 true s).mem.read 0x1000 ≠ s.mem.read 0x1000) ∧
    (let s := { started [] with rxd := .written 0#32 (frameOf 1 0#32) }
     (rxDmaTurn 0 s).mem.read 0x4003 ≠ s.mem.read 0x4003) := by decide +kernel

theorem witness_RxPhases_poll :
    stoppedState.phase = .first ∧ stoppedState.life ≠ .running ∧ ({ started [] with rxOut := true }).rxOut = true ∧
    (started []).phase = .first ∧ (started []).life = .running ∧ (started []).rxOut = false ∧
    (running .rxPoll (.rxP1 []) []).phase = .rxP1 [] ∧
    (let s := running .rxPoll (.rxP1 []) [(0x4000#32, 0x80080040#32)]
     s.cfg.own (s.memRead s.rxSlot) = true ∧ s.cfg.rxBad (s.memRead s.rxSlot) = true) ∧
    (let s := running .rxPoll (.rxP1 []) [(0x4000#32, 0x808005EA#32)]
     s.cfg.own (s.memRead s.rxSlot) = true ∧ s.cfg.rxBad (s.memRead s.rxSlot) = false) ∧
    (running .rxPoll (.rxP2 0x80000040#32) []).phase = .rxP2 0x80000040#32 ∧
    (running .rxPoll (.rxP2Lines 64 0x8000#32 []) []).phase = .rxP2Lines 64 0x8000#32 [] ∧
    (running .rxPoll (.rxP3 64 0x8000#32) []).phase = .rxP3 64 0x8000#32 := by decide +kernel

/-- A good packet of the longest length (X-10), and an armed slot. -/
theorem witness_RxPollAlone :
    (let s := started [(0x4000#32, 0x80000600#32)]
     s.cfg.launchOk = true ∧ s.cfg.toDmaMap = [] ∧ s.storeOk = true ∧ s.phase = .first ∧ s.life = .running ∧
     s.rxOut = false ∧ s.rxCur < s.cfg.rxCap ∧ s.cfg.own (s.ramWord s.rxSlot) = true ∧
     s.cfg.rxBad (s.ramWord s.rxSlot) = false) ∧
    (started []).cfg.own ((started []).ramWord (started []).rxSlot) = false := by decide +kernel

theorem witness_RxPhases_release :
    (started []).phase = .first ∧ (started []).rxOut = false ∧ ({ started [] with rxOut := true }).life = .running ∧
    ({ started [] with rxOut := true }).rxOut = true ∧ (running .rxRelease .rxL2 []).phase = .rxL2 ∧
    (running .rxRelease (.rxL2Lines []) []).phase = .rxL2Lines [] ∧ (running .rxRelease .rxL3 []).phase = .rxL3 := by
  decide +kernel

/-- L-3: the last slot. -/
theorem witness_RxReleaseAlone :
    let s := { started [(0x4030#32, 0xC0000040#32)] with rxOut := true, rxOutSlot := 3, rxCur := 3 }
    s.cfg.launchOk = true ∧ s.cfg.toDmaMap = [] ∧ s.storeOk = true ∧ s.phase = .first ∧ s.life = .running ∧
    s.rxOut = true ∧ s.rxOutSlot < s.cfg.rxCap ∧
    s.cfg.lineOf (0x4040#32).toNat ∉ s.cfg.lines s.releaseSlot.toNat s.cfg.descSize := by decide +kernel

/-- A frame of two bytes; the bytes next to the buffer and to word 0 are outside the ranges. -/
theorem witness_RxDmaDelivers :
    let s := started []
    s.cfg.layoutFits = true ∧ s.storeOk = true ∧ s.cfg.rxBufSize ≤ s.cfg.lenMax ∧ s.rxEnabled = true ∧ s.rxd = .idle ∧
    (frameOf 2 0#32).bytes.length ≤ s.cfg.rxBufSize ∧ s.cfg.own (s.dmaRead s.rxHwptr) = false ∧
    (∀ k, k < (frameOf 2 0#32).bytes.length → ∀ j, j < 4 →
      (s.dmaRead (bufWordOf s.cfg s.rxHwptr) + BitVec.ofNat 32 k).toNat ≠ (s.rxHwptr + BitVec.ofNat 32 j).toNat) ∧
    [1, 0, 0, 0].length = max (frameOf 2 0#32).bytes.length 1 + 2 := by decide +kernel

theorem witness_LinkAdjustPhases :
    stoppedState.phase = .first ∧ stoppedState.life ≠ .running ∧ (started []).phase = .first ∧ (started []).life = .running ∧
    (withArgs (started []) 0x0000001E#32 0#32).arg0.extractLsb' 4 28 ≠ 0#28 ∧
    (withArgs (started []) 0x0000000F#32 0#32).arg0.extractLsb' 4 28 = 0#28 ∧
    (running .linkAdjust (.linkK2 ⟨.mbit1000, true, false⟩) []).phase = .linkK2 ⟨.mbit1000, true, false⟩ ∧
    (started []).cfg.ifmode ∉ (started []).cfg.noNeg ∧
    (withCfg (started []) fun c => { c with ifmode := 6 }).cfg.ifmode ∈ (started []).cfg.noNeg ∧
    (started []).macRst = false ∧ (started []).mac.maccr.getLsbD 31 = false := by decide +kernel

theorem witness_DevStartConfigCheck :
    (stoppedState.atPhase .devStart .devS2).phase = .devS2 ∧ stoppedState.cfg.wellFormed = true ∧
    (withCfg stoppedState fun c => { c with txCap := 3 }).cfg.wellFormed = false ∧
    stoppedState.cfg.descAlign = 16 := by decide +kernel

theorem witness_DevStartPhases :
    stoppedState.phase = .first ∧ stoppedState.life ∈ [Life.stopped, .error] ∧ (starting .devS3).phase = .devS3 ∧
    (starting .devS5).phase = .devS5 ∧ (starting (.devS6 .i6)).phase = .devS6 .i6 ∧ (starting (.devS7 .i2)).phase = .devS7 .i2 ∧
    (starting .devS8).phase = .devS8 ∧ (starting .devS9).phase = .devS9 ∧
    ((starting .devS10).phase = .devS10 ∧ (starting .devS10).macRst = false ∧
      (starting .devS10).mac.maccr.getLsbD 31 = false ∧ (starting .devS10).cfg.startExtra.getLsbD 31 = false) ∧
    (starting .devS11).phase = .devS11 ∧ (starting .devS11).draw.phy = .transport ∧
    ({ starting .devS11 with draw := ⟨0, .link ⟨.mbit1000, true, true⟩⟩ }).draw.phy = .link ⟨.mbit1000, true, true⟩ ∧
    (starting (.devS12 ⟨.mbit10, false, false⟩)).phase = .devS12 ⟨.mbit10, false, false⟩ ∧
    (starting .devS13).phase = .devS13 := by decide +kernel

theorem witness_DevStartReachesRunning :
    let s := { starting .devS5 with draw := ⟨0, .link ⟨.mbit1000, true, true⟩⟩ }
    s.cfg.launchOk = true ∧ s.cfg.toDmaMap = [] ∧ s.storeOk = true ∧ s.phase = .devS5 ∧ s.macRst = false ∧
    s.mac.maccr &&& 0x8000000F#32 = 0#32 ∧ s.cfg.startExtra.getLsbD 31 = false ∧
    s.draw.phy = .link ⟨.mbit1000, true, true⟩ ∧ (⟨.mbit1000, true, true⟩ : LinkState).up = true ∧ s.txd = .idle ∧
    s.rxd = .idle := by decide +kernel

theorem witness_DevStopResult :
    (started []).phase = .first ∧ (started []).life ≠ .starting ∧ ({ started [] with life := .starting }).life = .starting ∧
    (running .devStop .stopX2 []).phase = .stopX2 ∧ (running .devStop .stopX2 []).mac.maccr.getLsbD 31 = false ∧
    (running .devStop .stopX3 []).phase = .stopX3 := by decide +kernel

theorem witness_DevSetMacResult :
    ({ started [] with life := .starting }).life = .starting ∧ (started []).life ≠ .starting ∧ (started []).phase = .first ∧
    (withArgs (started []) 0x00010200#32 0#32).arg0.extractLsb' 16 16 ≠ 0#16 ∧
    (withArgs (started []) 0x0000FFFF#32 0#32).arg0.extractLsb' 16 16 = 0#16 ∧
    (running .devSetMac .setMacA2 []).phase = .setMacA2 := by decide +kernel

/-- One step for each of the four transitions. -/
theorem witness_LifecycleTransitions :
    (let s := nextIs (softwareTurnOf 0) (stoppedState.atPhase .devStart .devS2)
     s.sound = true ∧ ∃ t, step s = .next t ∧ decide (t.life = .starting) = true) ∧
    (let s := nextIs (softwareTurnOf 0) (starting .devS13)
     s.sound = true ∧ ∃ t, step s = .next t ∧ decide (t.life = .running) = true) ∧
    (let s := nextIs (softwareTurnOf 0) (starting .devS11)
     s.sound = true ∧ ∃ t, step s = .next t ∧ decide (t.life = .error) = true) ∧
    (let s := nextIs (softwareTurnOf 0) (running .devStop .stopX3 [])
     s.sound = true ∧ ∃ t, step s = .next t ∧ decide (t.life = .stopped) = true) :=
  ⟨⟨by decide +kernel, next_of_answersNext (by decide +kernel)⟩, ⟨by decide +kernel, next_of_answersNext (by decide +kernel)⟩,
    ⟨by decide +kernel, next_of_answersNext (by decide +kernel)⟩, ⟨by decide +kernel, next_of_answersNext (by decide +kernel)⟩⟩

theorem witness_MacResetCompletes : (started []).macRst = false ∧ ({ started [] with macRst := true }).macRst = true := by
  decide +kernel

/-- The timer sets the flag inside T7, and T6 clears it. -/
theorem witness_TimerFlag :
    (let s := nextIs .timer (running .txSubmit (.txT7 []) [])
     s.expired = false ∧ s.waiting = true ∧ ∃ t, step s = .next t ∧ t.expired = true) ∧
    (let s := nextIs (softwareTurnOf 0) { running .txSubmit .txT6 [] with expired := true }
     s.expired = true ∧ ∃ t, step s = .next t ∧ (!t.expired) = true) :=
  ⟨⟨by decide +kernel, by decide +kernel, next_of_answersNext (by decide +kernel)⟩,
    ⟨by decide +kernel, next_of_answersNext (by decide +kernel)⟩⟩

/-- The agents take turns in a round. -/
def roundRobin (n : Nat) : Turn :=
  match n % 5 with
  | 0 => .software 0 .transport
  | 1 => .timer
  | 2 => .txDma 0 0#32 []
  | 3 => .rxDma 0
  | _ => .mac MacRegs.powerOn 0#32 0#32

theorem roundRobin_fair (k : Nat) (hk : k < 5) (enabled : State → Bool) (mine : Turn → Bool)
    (h : ∀ n, n % 5 = k → mine (roundRobin n) = true) (run : Nat → State) : WeaklyFair enabled mine roundRobin run :=
  fun n _ => ⟨5 * n + k, by omega, h _ (by omega)⟩

/-- A running TX_SUBMIT in its wait, and a schedule that is fair to every agent. -/
theorem witness_EveryCommandEnds :
    FairSchedule roundRobin (scheduledRun roundRobin (running .txSubmit (.txT7 []) [])) ∧
    (running .txSubmit (.txT7 []) []).sound = true ∧ (running .txSubmit (.txT7 []) []).cfg.resetBounded = true ∧
    (running .txSubmit (.txT7 []) []).busy = true :=
  ⟨{ software := roundRobin_fair 0 (by decide) _ _ (fun n h => by simp [roundRobin, h, Turn.isSoftware]) _
     timer := roundRobin_fair 1 (by decide) _ _ (fun n h => by simp [roundRobin, h, Turn.isTimer]) _
     txDma := roundRobin_fair 2 (by decide) _ _ (fun n h => by simp [roundRobin, h, Turn.isTxDma]) _
     rxDma := roundRobin_fair 3 (by decide) _ _ (fun n h => by simp [roundRobin, h, Turn.isRxDma]) _
     mac := fun _ => roundRobin_fair 4 (by decide) _ _ (fun n h => by simp [roundRobin, h, Turn.isMac]) _ },
    by decide +kernel, by decide +kernel, by decide +kernel⟩

/-- DEV_STOP's X2 changes MACCR. -/
theorem witness_ControlWordWriters :
    let s := nextIs (softwareTurnOf 0) (running .devStop .stopX2 [])
    ∃ t, step s = .next t ∧ decide (t.mac.maccr ≠ s.mac.maccr) = true := next_of_answersNext (by decide +kernel)

end Sys2Proof.Tests
end

/-! PROOFS. The DMA agents do not snoop (20_memory.md R82): each step of theirs commutes with putting another cache in the
state, and so leaves the cache as it was. -/

namespace Sys2Proof.Machine

/-- The state with another cache. -/
def State.withCache (s : State) (x : Cache) : State := { s with cache := x }

section
variable (s : State) (x : Cache)

@[simp] theorem State.withCache_cfg : (s.withCache x).cfg = s.cfg := rfl
@[simp] theorem State.withCache_txHwptr : (s.withCache x).txHwptr = s.txHwptr := rfl
@[simp] theorem State.withCache_rxHwptr : (s.withCache x).rxHwptr = s.rxHwptr := rfl
@[simp] theorem State.withCache_txKick : (s.withCache x).txKick = s.txKick := rfl
@[simp] theorem State.withCache_txd : (s.withCache x).txd = s.txd := rfl
@[simp] theorem State.withCache_rxd : (s.withCache x).rxd = s.rxd := rfl
@[simp] theorem State.withCache_txEnabled : (s.withCache x).txEnabled = s.txEnabled := rfl
@[simp] theorem State.withCache_rxEnabled : (s.withCache x).rxEnabled = s.rxEnabled := rfl
@[simp] theorem State.withCache_dmaRead (d : Word) : (s.withCache x).dmaRead d = s.dmaRead d := rfl

@[simp] theorem State.withCache_dmaWriteAll (ws : List (Word × Word)) :
    (s.withCache x).dmaWriteAll ws = (s.dmaWriteAll ws).withCache x := by
  induction ws generalizing s with
  | nil => rfl
  | cons w rest ih => exact ih (s.dmaWrite w.1 w.2)

end

/-- Doing `act` and putting another cache in the state commute: what `act` does is the same whatever the cache holds. -/
def IgnoresCache (act : State → State) : Prop :=
  ∀ (s : State) (x : Cache), act (s.withCache x) = (act s).withCache x

/-- Commuting with the cache that the state already has says that the cache stays. -/
theorem IgnoresCache.cache_eq {act : State → State} (h : IgnoresCache act) (s : State) : (act s).cache = s.cache :=
  calc (act s).cache = ((act s).withCache s.cache).cache := congrArg State.cache (h s s.cache)
    _ = s.cache := rfl

/-! ## The TX DMA agent (R200) -/

theorem txReadByte_ignoresCache (pick : Nat) (w b : Word) (todo : List Nat) (buf : List Byte) :
    IgnoresCache (txReadByte pick w b todo buf) := by
  intro s x
  cases h : takePick pick todo with
  | none => simp only [txReadByte, h]; rfl
  | some taken => cases hlast : taken.2.isEmpty <;> simp only [txReadByte, h, hlast] <;> rfl

theorem txDmaTurn_ignoresCache (pick : Nat) (y : Word) (reserved : List (Nat × Word)) :
    IgnoresCache (txDmaTurn pick y reserved) := by
  intro s x
  cases hen : s.txEnabled
  case false => simp [txDmaTurn, hen]
  cases htxd : s.txd with
  | idle =>
    cases hkick : s.txKick
    case false => simp [txDmaTurn, hen, htxd, hkick]
    cases hown : s.cfg.own (s.dmaRead s.txHwptr) <;> simp [txDmaTurn, hen, htxd, hkick, hown] <;> rfl
  | fetched w => simp [txDmaTurn, hen, htxd]; rfl
  | addressed w b todo buf => simp [txDmaTurn, hen, htxd, txReadByte_ignoresCache pick w b todo buf s x]
  | sent w => simp [txDmaTurn, hen, htxd]; rfl

/-! ## The wire and the RX DMA agent (R230) -/

theorem wireTurn_ignoresCache (f : Frame) : IgnoresCache (wireTurn f) := by
  intro s x
  cases hen : s.rxEnabled
  case false => simp [wireTurn, hen]
  by_cases hlen : f.bytes.length ≤ s.cfg.rxBufSize
  case neg => simp [wireTurn, hlen]
  cases hrxd : s.rxd with
  | idle =>
    cases hown : s.cfg.own (s.dmaRead s.rxHwptr)
    case true => simp [wireTurn, hen, hlen, hrxd, hown]
    case false => simp [wireTurn, hen, hlen, hrxd, hown]; rfl
  | fetched w g => simp [wireTurn, hrxd]
  | addressed w g d todo => simp [wireTurn, hrxd]
  | written w g => simp [wireTurn, hrxd]

theorem rxWriteByte_ignoresCache (pick : Nat) (w : Word) (f : Frame) (d : Word) (todo : List Nat) :
    IgnoresCache (rxWriteByte pick w f d todo) := by
  intro s x
  cases h : takePick pick todo <;> simp only [rxWriteByte, h] <;> rfl

theorem rxDmaTurn_ignoresCache (pick : Nat) : IgnoresCache (rxDmaTurn pick) := by
  intro s x
  cases hen : s.rxEnabled
  case false => simp [rxDmaTurn, hen]
  cases hrxd : s.rxd with
  | idle => simp [rxDmaTurn, hrxd]
  | fetched w f => simp [rxDmaTurn, hen, hrxd]; rfl
  | addressed w f d todo => simp [rxDmaTurn, hen, hrxd, rxWriteByte_ignoresCache pick w f d todo s x]
  | written w f => simp [rxDmaTurn, hen, hrxd]; rfl

/-- Settles O22: each agent's turn commutes with putting another cache in the state; that it keeps the cache follows. -/
theorem dmaIgnoresTheCache : Obligations.DmaIgnoresTheCache := fun s x =>
  ⟨fun pick y reserved =>
      ⟨(txDmaTurn_ignoresCache pick y reserved).cache_eq s, txDmaTurn_ignoresCache pick y reserved s x⟩,
    fun f => ⟨(wireTurn_ignoresCache f).cache_eq s, wireTurn_ignoresCache f s x⟩,
    fun pick => ⟨(rxDmaTurn_ignoresCache pick).cache_eq s, rxDmaTurn_ignoresCache pick s x⟩⟩

end Sys2Proof.Machine

/-! PROOFS. What the CPU side sees (20_memory.md R79 to R81): a read changes no byte of the view, an aligned write is read
back, and a write changes no byte of the view outside its word. -/

namespace Sys2Proof

/-- An aligned word does not leave its line. -/
theorem Config.word_within_line (c : Config) (a : Nat) (h : a % 4 = 0) :
    a - c.lineOf a + 4 ≤ c.line := by
  have hle := c.lineOf_le a
  have hlt := c.lt_lineOf_add a
  have hline : c.line % 4 = 0 := by rw [c.line_eq]; omega
  have hof : c.lineOf a % 4 = 0 := by simp [Config.lineOf, Nat.mul_mod, hline]
  omega

namespace Machine

/-- A word is made of the first four bytes only (R73). -/
theorem bytesWord_congr (e : Endian) (b b' : List Byte) (h : ∀ k, k < 4 → b.getD k 0#8 = b'.getD k 0#8) :
    bytesWord e b = bytesWord e b' := by
  cases e <;> simp only [bytesWord, h 0 (by decide), h 1 (by decide), h 2 (by decide), h 3 (by decide)]

/-- A word set in a line at an offset is the word that the line has there. -/
theorem bytesWord_drop_setBytes (e : Endian) (bs : List Byte) (off : Nat) (v : Word) (h : off + 4 ≤ bs.length) :
    bytesWord e ((setBytes bs off (wordBytes e v)).drop off) = v := by
  refine (bytesWord_congr e _ (wordBytes e v) fun k hk => ?_).trans (bytesWord_wordBytes e v)
  calc ((setBytes bs off (wordBytes e v)).drop off).getD k 0#8
      = (setBytes bs off (wordBytes e v)).getD (off + k) 0#8 := by simp [List.getD]
    _ = (wordBytes e v).getD k 0#8 := setBytes_getD_same bs off _ k (by simpa using hk) (by simpa using h)

/-- The line that a CPU-side access uses has LINE bytes, whether it was Valid or is filled now (R80). -/
theorem Store.filled_length (c : Config) (l : Nat) (x : Store) (hx : x.wf c = true) :
    ((x.cache.get l).getD ⟨lineBytes c x.mem l, false⟩).bytes.length = c.line := by
  cases h : x.cache.get l with
  | none => simp
  | some y => exact Cache.length_of_wf c _ l y ((Store.wf_iff c x).mp hx).2 h

/-- R79 to R81: an aligned CPU-side write is read back. -/
theorem Store.cpuWord_cpuWrite (c : Config) (a v : Word) (x : Store) (hx : x.wf c = true) (ha : a.toNat % 4 = 0) :
    (x.cpuWrite c a v).cpuWord c a = v := by
  cases h : c.coherent with
  | true =>
    simp only [Store.cpuWord, h, Store.cpuWrite_coherent c a v x h, if_true]
    exact Memory.readWord_writeWord x.mem c.endian (c.toDma a) v ((Store.wf_iff c x).mp hx).1
  | false =>
    rw [Store.cpuWord_eq c a _ h, Store.cpuWrite_get_same c a v x h, Option.getD_some]
    exact bytesWord_drop_setBytes _ _ _ _ (by rw [Store.filled_length c _ x hx]; exact c.word_within_line _ ha)

theorem State.store_wf_of_storeOk (s : State) (h : s.storeOk = true) : s.store.wf s.cfg = true := by
  simp only [State.storeOk, Bool.and_eq_true] at h
  exact (Store.wf_iff s.cfg s.store).mpr h.1

/-- The CPU's view of a byte where DMA is not coherent: the line, filled if it is Invalid, at the byte's offset (R80). -/
theorem State.cpuByte_eq (s : State) (x : Word) (h : s.cfg.coherent = false) :
    s.cpuByte x =
      ((s.cache.get (s.cfg.lineOf x.toNat)).getD ⟨lineBytes s.cfg s.mem (s.cfg.lineOf x.toNat), false⟩).bytes.getD
        (x.toNat - s.cfg.lineOf x.toNat) 0#8 := by
  cases hl : s.cache.get (s.cfg.lineOf x.toNat) with
  | some y => simp [State.cpuByte, h, hl]
  | none =>
    have hoff : x.toNat - s.cfg.lineOf x.toNat < s.cfg.line := by
      have := s.cfg.lt_lineOf_add x.toNat
      have := s.cfg.lineOf_le x.toNat
      omega
    simp [State.cpuByte, h, hl, lineBytes, List.getD, Memory.readBytes_getElem? _ _ _ _ hoff]

/-- R80: a CPU-side read changes no byte of the CPU's view. -/
theorem State.cpuByte_memReadState (s : State) (a x : Word) : (s.memReadState a).cpuByte x = s.cpuByte x := by
  cases h : s.cfg.coherent with
  | true => simp [State.cpuByte, h]
  | false =>
    have hview := (s.memReadState a).cpuByte_eq x h
    have hfill : s.store.afterRead s.cfg a = s.store.fill s.cfg (s.cfg.lineOf a.toNat) := by simp [Store.afterRead, h]
    simp only [State.memReadState_cfg, State.memReadState_mem, State.memReadState_cache, hfill, Store.fill_mem] at hview
    rw [hview, s.cpuByte_eq x h]
    by_cases hl : s.cfg.lineOf x.toNat = s.cfg.lineOf a.toNat
    · rw [hl, Store.fill_get_same]
      rfl
    · rw [Store.fill_get_other _ _ _ _ hl]
      rfl

/-- An address four or more bytes on from another, modulo 2^32, is none of the four bytes there. -/
theorem toNat_ne_of_four_le (x a : Word) (h : 4 ≤ (x - a).toNat) (k : Nat) (hk : k < 4) :
    x.toNat ≠ (a + BitVec.ofNat 32 k).toNat := by
  intro e
  rw [BitVec.toNat_inj.mp e, BitVec.add_comm, BitVec.add_sub_cancel, BitVec.toNat_ofNat] at h
  omega

/-- R79, R81: a CPU-side write changes no byte of the CPU's view outside its word; with the identity translation where DMA
is coherent. -/
theorem State.cpuByte_memWrite_other (s : State) (a v x : Word) (hid : s.cfg.coherent = true → s.cfg.toDmaMap = [])
    (hx : 4 ≤ (x - a).toNat) : (s.memWrite a v).cpuByte x = s.cpuByte x := by
  cases h : s.cfg.coherent with
  | true =>
    have hmem : (s.memWrite a v).mem = s.mem.writeWord s.cfg.endian a v := by
      rw [State.memWrite_mem, Store.cpuWrite_coherent _ _ _ _ h, Config.toDma_id _ _ (hid h)]
      rfl
    simp only [State.cpuByte, State.memWrite_cfg, h, if_true, Config.toDma_id _ _ (hid h), hmem]
    exact Memory.read_writeWord_other _ _ _ _ _ (toNat_ne_of_four_le x a hx)
  | false =>
    have hview := (s.memWrite a v).cpuByte_eq x h
    simp only [State.memWrite_cfg, State.memWrite_mem, State.memWrite_cache, Store.cpuWrite_mem _ _ _ _ h] at hview
    rw [hview, s.cpuByte_eq x h]
    by_cases hl : s.cfg.lineOf x.toNat = s.cfg.lineOf a.toNat
    · rw [hl, Store.cpuWrite_get_same _ _ _ _ h, Option.getD_some]
      have hle := s.cfg.lineOf_le x.toNat
      rw [hl] at hle
      have hle' := s.cfg.lineOf_le a.toNat
      exact setBytes_getD_other _ _ _ _ (by rw [wordBytes_length]; bv_omega)
    · rw [Store.cpuWrite_get_other _ _ _ _ _ h hl]
      rfl

/-! ## Setting EOR in a word 0 (R141 I4, R144 M2) -/

theorem State.memRead_markEndAt (s : State) (a : Word) (hs : s.store.wf s.cfg = true) (ha : a.toNat % 4 = 0) :
    (s.markEndAt a).memRead a = s.cfg.markWord (s.memRead a) :=
  Store.cpuWord_cpuWrite s.cfg a _ (s.store.afterRead s.cfg a) (Store.wf_afterRead s.cfg a _ hs) ha

/-- Without coherent DMA the end of a ring is marked in the cache only (R81). -/
theorem State.markEndAt_mem (s : State) (a : Word) (h : s.cfg.coherent = false) : (s.markEndAt a).mem = s.mem :=
  (Store.cpuWrite_mem s.cfg a _ (s.store.afterRead s.cfg a) h).trans (Store.afterRead_mem s.cfg a _)

theorem State.cpuByte_markEndAt_other (s : State) (a x : Word) (hid : s.cfg.coherent = true → s.cfg.toDmaMap = [])
    (hx : 4 ≤ (x - a).toNat) : (s.markEndAt a).cpuByte x = s.cpuByte x :=
  ((s.memReadState a).cpuByte_memWrite_other a _ x hid hx).trans (s.cpuByte_memReadState a x)

end Machine

end Sys2Proof

/-! PROOFS. Ring geometry under a well-formed configuration (R9, R105, R140), and what the RING_* commands with an index
answer (40_ring.md R142 to R144). -/

namespace Sys2Proof

theorem capacityOk_iff (n : Nat) : capacityOk n = true ↔ ∃ k, k < 16 ∧ 2 ^ k = n := by simp [capacityOk]

/-- A capacity is in 1..32768 (R9). -/
theorem capacityOk_bounds {n : Nat} (h : capacityOk n = true) : 0 < n ∧ n ≤ 32768 := by
  obtain ⟨k, hk, rfl⟩ := (capacityOk_iff n).mp h
  exact ⟨Nat.two_pow_pos k, Nat.pow_le_pow_right (by decide) (show k ≤ 15 by omega)⟩

/-- What R9 asks of a ring. -/
theorem Config.ring_of_wellFormed (c : Config) (r : Ring) (h : c.wellFormed = true) :
    capacityOk (c.cap r) = true ∧ (c.base r).toNat % c.descAlign = 0 ∧ c.descSize % c.descAlign = 0 := by
  simp only [Config.wellFormed, Bool.and_eq_true, decide_eq_true_eq] at h
  obtain ⟨⟨⟨⟨⟨⟨⟨htx, hrx⟩, hsize⟩, -⟩, -⟩, htxBase⟩, hrxBase⟩, -⟩ := h
  cases r with
  | tx => exact ⟨htx, htxBase, hsize⟩
  | rx => exact ⟨hrx, hrxBase, hsize⟩

theorem Config.advance_lt_cap (c : Config) (r : Ring) (i : Nat) (h : c.wellFormed = true) :
    c.advance r i < c.cap r ∧ c.cap r ≤ 32768 := by
  obtain ⟨hpos, hle⟩ := capacityOk_bounds (c.ring_of_wellFormed r h).1
  exact ⟨Nat.mod_lt _ hpos, hle⟩

/-- Every slot starts at a multiple of DESC_ALIGN (R9, R74), also where its address wraps. -/
theorem Config.slot_aligned (c : Config) (r : Ring) (i : Nat) (h : c.wellFormed = true) (hal : c.descAlign = 16) :
    (c.slot r i).toNat % 16 = 0 := by
  obtain ⟨-, hbase, hsize⟩ := c.ring_of_wellFormed r h
  rw [hal] at hbase hsize
  have hoff : i * c.descSize % 16 = 0 := by simp [Nat.mul_mod, hsize]
  rw [Config.slot, BitVec.toNat_add, BitVec.toNat_ofNat]
  omega

@[simp] theorem Config.wordAddr_zero (c : Config) (r : Ring) (i : Nat) : c.wordAddr r i 0 = c.slot r i := by
  simp [Config.wordAddr]

namespace Machine

theorem exec_ringSlot (r : Ring) (i : Nat) (s : State) :
    exec (.ringSlot r i) s =
      if s.cfg.cap r ≤ i then .next (s.endCommand .badArg 0 0#32) else .next (s.endCommand .ok 0 (s.cfg.slot r i)) := rfl

/-- M1: lifecycle before argument (R144, R295). -/
theorem exec_ringMarkEnd_first (r : Ring) (i : Nat) (s : State) (hp : s.phase = .first) :
    exec (.ringMarkEnd r i) s =
      if s.life ∈ [.stopped, .error] then
        if i + 1 = s.cfg.cap r then .next (s.atPhase (.ringMarkEnd r i) .markM2)
        else .next (s.endCommand .badArg 0 0#32)
      else .next (s.endCommand .badState 0 0#32) := by
  simp only [exec, execRingMarkEnd, hp, legal]
  cases s.life <;> rfl

/-- M2 (R144). -/
theorem exec_ringMarkEnd_markM2 (r : Ring) (i : Nat) (s : State) (hp : s.phase = .markM2) :
    exec (.ringMarkEnd r i) s = .next ((s.markEndAt (s.cfg.wordAddr r i 0)).endCommand .ok 0 0#32) := by
  simp only [exec, execRingMarkEnd, hp]
  rfl

/-- Settles O25: M1's checks in R295's order, and M2 as one marking of word 0 of the slot. -/
theorem ringMarkEndResult : Obligations.RingMarkEndResult := by
  refine ⟨fun r i s hp => ?_, fun r i s hp hs hwf hal => ⟨_, exec_ringMarkEnd_markM2 r i s hp, rfl, ?_, ?_, ?_⟩⟩
  · rw [exec_ringMarkEnd_first r i s hp]
    exact ⟨fun hl => if_neg hl, fun hl hi => by rw [if_pos hl, if_neg hi], fun hl hi => by rw [if_pos hl, if_pos hi]⟩
  · have haligned : (s.cfg.wordAddr r i 0).toNat % 4 = 0 := by
      have := s.cfg.slot_aligned r i hwf hal
      rw [Config.wordAddr_zero]
      omega
    exact s.memRead_markEndAt _ (s.store_wf_of_storeOk hs) haligned
  · exact s.markEndAt_mem _
  · exact fun hid x hx => s.cpuByte_markEndAt_other _ x hid hx

/-- Settles O24: both commands end in their only phase, and a well-formed ring gives the bounds. -/
theorem ringIndexResults : Obligations.RingIndexResults := by
  refine fun r i s => ⟨rfl, fun hwf => ?_, fun hi => ?_, fun hi => ?_, s.cfg.slot_aligned r i⟩
  · obtain ⟨hlt, hle⟩ := s.cfg.advance_lt_cap r i hwf
    refine ⟨hlt, ?_⟩
    rw [State.endCommand_resultValue, BitVec.toNat_ofNat]
    exact Nat.mod_eq_of_lt (by rw [Config.advance] at hlt; omega)
  · rw [exec_ringSlot, if_neg (by omega)]
    rfl
  · rw [exec_ringSlot, if_pos hi]

end Machine

end Sys2Proof

/-! PROOFS. The fields of descriptor word 0 (30_encoding.md R100 to R103), and what TX_SUBMIT publishes in it and pads its
length to (42_tx.md R180, R181). -/

namespace Sys2Proof

/-! ## The masks of word 0, bit by bit -/

theorem getLsbD_bit (n j : Nat) (hn : n < 32) : (bit n).getLsbD j = decide (j = n) := by
  have h : (bit n).getLsbD j = (decide (n < 32) && decide (n = j)) := BitVec.getLsbD_twoPow n j
  rw [h, decide_eq_true hn, Bool.true_and]
  exact decide_eq_decide.mpr eq_comm

theorem and_bit (w : Word) (n : Nat) : w &&& bit n = if w.getLsbD n then bit n else 0#32 := BitVec.and_twoPow w n

theorem bit_ne_zero (n : Nat) (hn : n < 32) : bit n ≠ 0#32 := by
  intro h
  have hbit := getLsbD_bit n n hn
  rw [h] at hbit
  simp at hbit

theorem Config.eor_eq_getLsbD (c : Config) (w : Word) (h : c.eorBit < 32) : c.eor w = w.getLsbD c.eorBit := by
  rw [Config.eor, Config.eorM, and_bit]
  cases w.getLsbD c.eorBit with
  | true => exact bne_iff_ne.mpr (bit_ne_zero _ h)
  | false => rfl

theorem Config.and_eorM_of_eor (c : Config) (w : Word) (h : c.eor w = true) : w &&& c.eorM = c.eorM := by
  have hne : w &&& c.eorM ≠ 0#32 := bne_iff_ne.mp h
  rw [Config.eorM, and_bit] at hne ⊢
  split at hne
  · next hb => exact if_pos hb
  · exact absurd rfl hne

theorem Config.and_eorM_of_not_eor (c : Config) (w : Word) (h : c.eor w = false) : w &&& c.eorM = 0#32 :=
  bne_eq_false_iff_eq.mp h

/-! ## The LEN field, the low bits of word 0 -/

theorem Config.le_lenMax_iff (c : Config) (p : Nat) : p ≤ c.lenMax ↔ p < 2 ^ c.layout.lenBits := by
  have := Nat.two_pow_pos c.layout.lenBits
  rw [Config.lenMax]
  omega

theorem Config.testBit_of_le_lenMax (c : Config) {p j : Nat} (hp : p ≤ c.lenMax) (hj : c.layout.lenBits ≤ j) :
    p.testBit j = false :=
  Nat.testBit_lt_two_pow (((c.le_lenMax_iff p).mp hp).trans_le (Nat.pow_le_pow_right (by decide) hj))

theorem Config.len_eq_mod (c : Config) (w : Word) (h : c.layout.lenBits ≤ 32) :
    c.len w = w.toNat % 2 ^ c.layout.lenBits := by
  have hfits : c.lenMax < 2 ^ 32 := by
    have := Nat.pow_le_pow_right (show 0 < 2 by decide) h
    have := (c.le_lenMax_iff c.lenMax).mp le_rfl
    omega
  rw [Config.len, Config.lenM, BitVec.toNat_and, BitVec.toNat_ofNat, Nat.mod_eq_of_lt hfits, Config.lenMax,
    Nat.and_two_pow_sub_one_eq_mod]

/-- LEN is read back from a word whose low bits are those of a length that fits. -/
theorem Config.len_eq_of_low_bits (c : Config) {w : Word} {p : Nat} (h : c.layout.lenBits ≤ 32) (hp : p ≤ c.lenMax)
    (hbits : ∀ j, j < c.layout.lenBits → w.getLsbD j = p.testBit j) : c.len w = p := by
  rw [c.len_eq_mod w h]
  refine Nat.eq_of_testBit_eq fun j => ?_
  rw [Nat.testBit_mod_two_pow, BitVec.testBit_toNat]
  by_cases hj : j < c.layout.lenBits
  · rw [decide_eq_true hj, Bool.true_and, hbits j hj]
  · rw [decide_eq_false hj, Bool.false_and, c.testBit_of_le_lenMax hp (Nat.le_of_not_lt hj)]

/-- What `Config.layoutFits` asks of the single-bit fields and of LEN (R100, R101). -/
structure Config.FieldsApart (c : Config) : Prop where
  own_lt : c.layout.own < 32
  eor_lt : c.eorBit < 32
  fts_lt : c.layout.fts < 32
  lts_lt : c.layout.lts < 32
  len_le_own : c.layout.lenBits ≤ c.layout.own
  len_le_eor : c.layout.lenBits ≤ c.eorBit
  len_le_fts : c.layout.lenBits ≤ c.layout.fts
  len_le_lts : c.layout.lenBits ≤ c.layout.lts
  own_ne_eor : c.layout.own ≠ c.eorBit
  own_ne_fts : c.layout.own ≠ c.layout.fts
  own_ne_lts : c.layout.own ≠ c.layout.lts
  eor_ne_fts : c.eorBit ≠ c.layout.fts
  eor_ne_lts : c.eorBit ≠ c.layout.lts

theorem Config.fieldsApart_of_layoutFits (c : Config) (h : c.layoutFits = true) : c.FieldsApart := by
  simp only [Config.layoutFits, Bool.and_eq_true, decide_eq_true_eq, and_assoc] at h
  obtain ⟨-, hfts, hlts, hown, heor, hoe, hlo, hle, hlf, hll, hof, hol, hef, hel⟩ := h
  exact ⟨hown, heor, hfts, hlts, hlo, hle, hlf, hll, hoe, hof, hol, hef, hel⟩

/-! ## The word that TX_SUBMIT publishes (R181) -/

section
variable {c : Config} {p : Nat} (w : Word) (h : c.FieldsApart)
include h

theorem Config.txWord0_getLsbD (p j : Nat) :
    (c.txWord0 w p).getLsbD j =
      ((w.getLsbD j && decide (j = c.eorBit)) || decide (j = c.layout.own) || decide (j = c.layout.fts) ||
        decide (j = c.layout.lts) || (decide (j < 32) && p.testBit j)) := by
  simp only [Config.txWord0, Config.ownM, Config.eorM, Config.ftsM, Config.ltsM, BitVec.getLsbD_or, BitVec.getLsbD_and,
    BitVec.getLsbD_ofNat, getLsbD_bit _ _ h.own_lt, getLsbD_bit _ _ h.eor_lt, getLsbD_bit _ _ h.fts_lt,
    getLsbD_bit _ _ h.lts_lt]

/-- Below LEN's width the published word is the length. -/
theorem Config.txWord0_getLsbD_low (p : Nat) {j : Nat} (hj : j < c.layout.lenBits) :
    (c.txWord0 w p).getLsbD j = p.testBit j := by
  have hj32 : j < 32 := hj.trans_le (h.len_le_own.trans h.own_lt.le)
  rw [Config.txWord0_getLsbD w h]
  simp [(hj.trans_le h.len_le_eor).ne, (hj.trans_le h.len_le_own).ne, (hj.trans_le h.len_le_fts).ne,
    (hj.trans_le h.len_le_lts).ne, hj32]

/-- From LEN's width on, the published word has OWN, FTS and LTS and the old word's EOR. -/
theorem Config.txWord0_getLsbD_high (hp : p ≤ c.lenMax) {j : Nat} (hj : c.layout.lenBits ≤ j) :
    (c.txWord0 w p).getLsbD j =
      ((w.getLsbD j && decide (j = c.eorBit)) || decide (j = c.layout.own) || decide (j = c.layout.fts) ||
        decide (j = c.layout.lts)) := by
  rw [Config.txWord0_getLsbD w h, c.testBit_of_le_lenMax hp hj, Bool.and_false, Bool.or_false]

theorem Config.own_txWord0 (hp : p ≤ c.lenMax) : c.own (c.txWord0 w p) = true := by
  rw [Config.own, Config.txWord0_getLsbD_high w h hp h.len_le_own]
  simp

theorem Config.eor_txWord0 (hp : p ≤ c.lenMax) : c.eor (c.txWord0 w p) = c.eor w := by
  rw [c.eor_eq_getLsbD _ h.eor_lt, c.eor_eq_getLsbD _ h.eor_lt, Config.txWord0_getLsbD_high w h hp h.len_le_eor]
  simp [h.own_ne_eor.symm, h.eor_ne_fts, h.eor_ne_lts]

theorem Config.len_txWord0 (hp : p ≤ c.lenMax) : c.len (c.txWord0 w p) = p :=
  c.len_eq_of_low_bits (h.len_le_own.trans h.own_lt.le) hp fun _ hj => Config.txWord0_getLsbD_low w h p hj

end

theorem Config.txWord0_of_eor (c : Config) (w : Word) (p : Nat) (h : c.eor w = true) :
    c.txWord0 w p = c.eorM ||| c.ownM ||| c.ftsM ||| c.ltsM ||| BitVec.ofNat 32 p := by
  rw [Config.txWord0, c.and_eorM_of_eor w h]

theorem Config.txWord0_of_not_eor (c : Config) (w : Word) (p : Nat) (h : c.eor w = false) :
    c.txWord0 w p = c.ownM ||| c.ftsM ||| c.ltsM ||| BitVec.ofNat 32 p := by
  rw [Config.txWord0, c.and_eorM_of_not_eor w h, BitVec.zero_or]

/-! ## The reference positions (R100 to R102) -/

section
variable {c : Config} (h : c.layout = Layout.reference)
include h

theorem Config.eorBit_reference_later (hp : c.profile ≠ .legacy) : c.eorBit = 30 := by
  cases hc : c.profile with
  | legacy => exact absurd hc hp
  | laterA => simp only [Config.eorBit, hc, h, Layout.reference]
  | laterB => simp only [Config.eorBit, hc, h, Layout.reference]

theorem Config.eorBit_reference_legacy (hp : c.profile = .legacy) : c.eorBit = 15 := by
  simp only [Config.eorBit, hp, h, Layout.reference]

theorem Config.txWord0_reference_of_not_eor (w : Word) (heor : c.eor w = false) : c.txWord0 w 60 = 0xB000003C#32 := by
  rw [c.txWord0_of_not_eor w 60 heor, Config.ownM, Config.ftsM, Config.ltsM, h]
  decide

theorem Config.txWord0_reference_of_eor (w : Word) (heor : c.eor w = true) :
    c.txWord0 w 60 = bit c.eorBit ||| 0xB000003C#32 := by
  rw [c.txWord0_of_eor w 60 heor, Config.ownM, Config.ftsM, Config.ltsM, h, BitVec.or_assoc, BitVec.or_assoc,
    BitVec.or_assoc]
  rfl

end

namespace Machine

/-- Settles O37: the fields are read off the bits at and above LEN's width and those below it; the rule's values follow
from the mask that the old EOR leaves and the profile's EOR position. -/
theorem txWord0 : Obligations.TxWord0 := by
  refine ⟨fun c w p hfits hp => ?_, fun c w href =>
    ⟨fun _ => Config.txWord0_reference_of_not_eor href w, fun hlater h1 => ?_,
      fun _ => Config.txWord0_reference_of_not_eor href w, fun hlegacy h1 => ?_⟩⟩
  · have h := c.fieldsApart_of_layoutFits hfits
    have hbit {j : Nat} (hj : c.layout.lenBits ≤ j) := Config.txWord0_getLsbD_high w h hp hj
    refine ⟨rfl, Config.own_txWord0 w h hp, Config.eor_txWord0 w h hp, Config.len_txWord0 w h hp, ?_, ?_, ?_⟩
    · simp [hbit h.len_le_fts]
    · simp [hbit h.len_le_lts]
    · intro j hj hown heor hfts hlts
      simp [hbit hj, hown, heor, hfts, hlts]
  · rw [Config.txWord0_reference_of_eor href w h1, Config.eorBit_reference_later href hlater]
    decide
  · rw [Config.txWord0_reference_of_eor href w h1, Config.eorBit_reference_legacy href hlegacy]
    decide

/-- Settles O36: the larger of the length and MIN_FRAME on each side of 60, and ARG1 is what `State.txLen` pads. -/
theorem paddedLength : Obligations.PaddedLength := by
  intro c l hmin
  refine ⟨fun hl => ?_, fun hl => ?_, fun s hc ha => ?_⟩
  · rw [Config.padded, hmin, Nat.max_eq_right hl.le]
  · rw [Config.padded, hmin, Nat.max_eq_left hl]
  · rw [State.txLen, hc, ha]

end Machine

end Sys2Proof

/-! PROOFS. The MACCR word that the link logic writes (44_link.md R240, R241), and LINK_ADJUST phase by phase (R242,
R243). -/

namespace Sys2Proof

/-! ## The link word, bit by bit (R240) -/

theorem getLsbD_bit_if (b : Bool) (n j : Nat) (hn : n < 32) :
    (if b then bit n else 0#32).getLsbD j = (b && decide (j = n)) := by
  cases b with
  | true => exact getLsbD_bit n j hn
  | false => exact BitVec.getLsbD_zero

theorem Maccr.linkM_getLsbD (j : Nat) :
    Maccr.linkM.getLsbD j = (decide (j = 9) || decide (j = 19) || decide (j = 8)) := by
  simp only [Maccr.linkM, Maccr.gigaMode, Maccr.fastMode, Maccr.fulldup, BitVec.getLsbD_or,
    getLsbD_bit 9 j (by decide), getLsbD_bit 19 j (by decide), getLsbD_bit 8 j (by decide)]

/-- An old bit survives exactly outside LINK_M. -/
theorem getLsbD_and_not_linkM (w : Word) (j : Nat) :
    (w &&& ~~~Maccr.linkM).getLsbD j = (w.getLsbD j && !(decide (j = 9) || decide (j = 19) || decide (j = 8))) := by
  rw [BitVec.getLsbD_and, BitVec.getLsbD_not, Maccr.linkM_getLsbD]
  by_cases hj : j < 32
  · rw [decide_eq_true hj, Bool.true_and]
  · rw [BitVec.getLsbD_of_ge w j (Nat.le_of_not_lt hj), Bool.false_and, Bool.false_and]

theorem Config.linkWord_getLsbD (c : Config) (old : Word) (ls : LinkState) (j : Nat) :
    (c.linkWord old ls).getLsbD j =
      if j = 19 then ls.speed == .mbit100
      else if j = 9 then c.gigOk && ls.speed == .mbit1000
      else if j = 8 then ls.full
      else old.getLsbD j := by
  simp only [Config.linkWord, Maccr.gigaMode, Maccr.fastMode, Maccr.fulldup, BitVec.getLsbD_or, getLsbD_and_not_linkM,
    getLsbD_bit_if _ 9 j (by decide), getLsbD_bit_if _ 19 j (by decide), getLsbD_bit_if _ 8 j (by decide)]
  split_ifs with h19 h9 h8
  · simp [h19]
  · simp [h9]
  · simp [h8]
  · simp [h19, h9, h8]

/-! ## ARG0 as a link state (R123) -/

theorem speedOf_eq_getD : ∀ v : BitVec 2,
    speedOf v = [Speed.mbit10, .mbit100, .mbit1000, .other].getD v.toNat .other := by decide

theorem linkOfArg_of_reserved_set (w : Word) (h : w.extractLsb' 4 28 ≠ 0#28) : linkOfArg w = none := if_neg h

theorem linkOfArg_of_reserved_clear (w : Word) (h : w.extractLsb' 4 28 = 0#28) :
    linkOfArg w =
      some ⟨[Speed.mbit10, .mbit100, .mbit1000, .other].getD (w.toNat % 4) .other, w.getLsbD 2, w.getLsbD 3⟩ := by
  rw [linkOfArg, if_pos h, speedOf_eq_getD, BitVec.extractLsb'_toNat, Nat.shiftRight_zero]

namespace Machine

/-! ## link_apply (R242) -/

theorem linkRefused_iff (c : Config) (ls : LinkState) :
    linkRefused c ls = true ↔ ls.up = false ∧ c.ifmode ∉ c.noNeg := by simp [linkRefused, Config.noNegMode]

theorem State.regRead_maccr_of_no_reset (s : State) (h : s.macRst = false) : s.regRead .maccr = s.mac.maccr := by
  simp [State.regRead, h]

theorem and_not_swRst (v : Word) (h : v.getLsbD 31 = false) : v &&& ~~~Maccr.swRst = v := by
  refine BitVec.eq_of_getLsbD_eq fun j hj => ?_
  rw [BitVec.getLsbD_and, BitVec.getLsbD_not, Maccr.swRst, getLsbD_bit 31 j (by decide), decide_eq_true hj]
  by_cases h31 : j = 31
  · rw [h31, h, Bool.false_and]
  · rw [decide_eq_false h31, Bool.not_false, Bool.and_true, Bool.and_true]

/-- A write of MACCR with bit 31 = 0 stores the value and starts and ends no reset (R77, R324). -/
theorem State.regWrite_maccr_of_bit31_clear (s : State) (v : Word) (h : v.getLsbD 31 = false) :
    s.regWrite .maccr v = { s with mac := { s.mac with maccr := v } } := by
  rw [State.regWrite, and_not_swRst v h, h, Bool.or_false]

theorem State.linkResult_of_no_reset (s : State) (ls : LinkState) (h : s.macRst = false) :
    s.linkResult ls = s.cfg.linkWord s.mac.maccr ls := by
  rw [State.linkResult, s.regRead_maccr_of_no_reset h]

/-- R241: bit 31 is not the link's, so that link_apply starts no reset where MACCR reads no reset. -/
theorem State.linkWrite_of_no_reset (s : State) (ls : LinkState) (h : s.macRst = false)
    (hm : s.mac.maccr.getLsbD 31 = false) :
    s.linkWrite ls = { s with mac := { s.mac with maccr := s.cfg.linkWord s.mac.maccr ls } } := by
  have h31 : (s.cfg.linkWord s.mac.maccr ls).getLsbD 31 = false := (s.cfg.linkWord_getLsbD _ ls 31).trans hm
  rw [State.linkWrite, s.linkResult_of_no_reset ls h, s.regWrite_maccr_of_bit31_clear _ h31]

/-! ## The phases of LINK_ADJUST (R243) -/

/-- K1: lifecycle before argument (R243, R295). -/
theorem exec_linkAdjust_first (s : State) (hp : s.phase = .first) :
    exec .linkAdjust s =
      if s.life = .running then
        (linkOfArg s.arg0).elim (.next (s.endCommand .badArg 0 0#32)) fun ls =>
          .next (s.atPhase .linkAdjust (.linkK2 ls))
      else .next (s.endCommand .badState 0 0#32) := by
  simp only [exec, execLinkAdjust, hp, legal, beq_iff_eq]
  cases linkOfArg s.arg0 <;> rfl

/-- K2 (R242, R243). -/
theorem exec_linkAdjust_linkK2 (s : State) (ls : LinkState) (hp : s.phase = .linkK2 ls) :
    exec .linkAdjust s =
      if linkRefused s.cfg ls then .next (s.endCommand .noLink 0 0#32)
      else .next ((s.linkWrite ls).endCommand .ok 0 (s.linkResult ls)) := by
  simp only [exec, execLinkAdjust, hp]
  rfl

/-- Settles O49: each clause is the value of the link word at its bit. -/
theorem linkWordTable : Obligations.LinkWordTable := fun c old ls =>
  ⟨c.linkWord_getLsbD old ls 19, c.linkWord_getLsbD old ls 9, c.linkWord_getLsbD old ls 8, fun j h19 h9 h8 => by
    rw [c.linkWord_getLsbD, if_neg h19, if_neg h9, if_neg h8]⟩

/-- Settles O50: K1's checks in R295's order, then K2 by whether link_apply refuses the link; that nothing but MACCR and
the results changes without a reset is that the link keeps bit 31. -/
theorem linkAdjustPhases : Obligations.LinkAdjustPhases := by
  refine ⟨fun s hp => ?_, fun s ls hp => ?_⟩
  · rw [exec_linkAdjust_first s hp]
    refine ⟨fun hl => if_neg hl, fun hl hr => ?_, fun hl hr => ?_⟩
    · rw [if_pos hl, linkOfArg_of_reserved_set _ hr, Option.elim_none]
    · rw [if_pos hl, linkOfArg_of_reserved_clear _ hr, Option.elim_some]
  · rw [exec_linkAdjust_linkK2 s ls hp]
    refine ⟨fun hup hmode => if_pos ((linkRefused_iff _ _).mpr ⟨hup, hmode⟩), fun hok => ?_⟩
    have hgoes : ¬ linkRefused s.cfg ls = true := by
      rw [linkRefused_iff]
      rintro ⟨hup, hmode⟩
      exact hok.elim (by simp [hup]) hmode
    rw [if_neg hgoes]
    refine ⟨rfl, fun hrst hm => ?_⟩
    rw [s.linkWrite_of_no_reset ls hrst hm, s.linkResult_of_no_reset ls hrst]

end Machine

end Sys2Proof

/-! PROOFS. The legality table (45_device.md R256): which commands end with BAD_STATE in their first phase. -/

namespace Sys2Proof.Machine

theorem legal_iff_mem_yesStates (i : Instr) (l : Life) : legal i l = true ↔ l ∈ yesStates i := by
  cases i <;> cases l <;> simp [legal, yesStates]

theorem Status.code_inj {a b : Status} : a.code = b.code ↔ a = b := by
  cases a <;> cases b <;> decide

/-- In its first phase the command answers BAD_STATE: the table says "no", or rx_out is not as RX_POLL or RX_RELEASE
needs it (R211, R212, R256). -/
def Refused (i : Instr) (s : State) : Prop :=
  legal i s.life = false ∨ (i = .rxPoll ∧ s.rxOut = true) ∨ (i = .rxRelease ∧ s.rxOut = false)

/-- Three outcomes end with BAD_STATE; every other end has another status, and an outcome that goes on names
its command in st.op. -/
theorem CommandStep.refused_of_badState {i : Instr} {s t : State} (h : CommandStep i s t) (hop : t.op = none)
    (hst : t.statusCode = Status.badState.code) : Refused i s := by
  cases h with
  | badState _ hl => exact .inl hl
  | rxPollOutstanding _ _ ho => exact .inr (.inl ⟨rfl, ho⟩)
  | rxReleaseNone _ _ ho => exact .inr (.inr ⟨rfl, ho⟩)
  | _ => simp [Status.code_inj] at hop hst

/-- Each other outcome is a later phase's, or has checked that its command is not refused. -/
theorem CommandStep.eq_badState_of_refused {i : Instr} {s t : State} (h : CommandStep i s t) (hp : s.phase = .first)
    (hr : Refused i s) : t = s.endCommand .badState 0 0#32 := by
  cases h with
  | badState | rxPollOutstanding | rxReleaseNone => rfl
  | _ => simp_all [Refused, legal, TxAtT1, RxAtP1, RxAtP2, RxAtL2]

/-- Settles O16: a first phase ends with BAD_STATE exactly where the command is refused, which inside the table's "yes"
is rx_out alone. -/
theorem legalityTable : Obligations.LegalityTable := by
  intro i s hp
  obtain ⟨t, he, hstep⟩ := exec_answers i s
  refine ⟨fun hno => ?_, fun hyes => ⟨t, he, fun ⟨hop, hst⟩ => ?_, fun hrx => ?_⟩⟩
  · have hl : legal i s.life = false := by simpa [← legal_iff_mem_yesStates] using hno
    rw [he, hstep.eq_badState_of_refused hp (.inl hl)]
  · exact (hstep.refused_of_badState hop hst).resolve_left (by simp [legal_iff_mem_yesStates, hyes])
  · rw [hstep.eq_badState_of_refused hp (.inr hrx)]
    exact ⟨rfl, s.endCommand_statusCode .badState 0 0#32⟩

end Sys2Proof.Machine

/-! PROOFS. DEV_STOP (45_device.md R261) and DEV_SET_MAC (R263) phase by phase: clearing bits of MACCR neither starts nor
ends a reset (R77, R324), and the station address packed from the operands is the one the two registers hold. -/

namespace Sys2Proof

/-! ## The station address (R263) -/

/-- The address is its six bytes, first byte highest. -/
theorem macOfArgs_eq_bytes (a b : Word) :
    macOfArgs a b =
      a.extractLsb' 8 8 ++ a.extractLsb' 0 8 ++ b.extractLsb' 24 8 ++ b.extractLsb' 16 8 ++ b.extractLsb' 8 8 ++
        b.extractLsb' 0 8 := by
  refine BitVec.eq_of_getLsbD_eq fun j hj => ?_
  simp only [macOfArgs, BitVec.getLsbD_append, BitVec.getLsbD_extractLsb']
  grind

theorem macLow_macOfArgs (a b : Word) : macLow (macOfArgs a b) = b := BitVec.extractLsb'_append_eq_right

theorem macHigh_macOfArgs (a b : Word) (h : a.extractLsb' 16 16 = 0#16) : macHigh (macOfArgs a b) = a := by
  have hhigh : a.toNat / 2 ^ 16 % 2 ^ 16 = 0 := by
    simpa only [BitVec.extractLsb'_toNat, Nat.shiftRight_eq_div_pow, BitVec.toNat_ofNat, Nat.zero_mod]
      using congrArg BitVec.toNat h
  have hlow : (macHigh (macOfArgs a b)).toNat = a.toNat % 2 ^ 16 % 2 ^ 32 := by
    rw [macHigh, macOfArgs, BitVec.extractLsb'_append_eq_left, BitVec.toNat_setWidth, BitVec.extractLsb'_toNat,
      Nat.shiftRight_zero]
  exact BitVec.eq_of_toNat_eq (by omega)

namespace Machine

/-! ## MACCR bits cleared by a read-modify-write (R77, R324) -/

/-- Bit 31 as read is the reset in progress (R54). -/
theorem State.regRead_maccr_getLsbD_31 (s : State) (h : s.mac.maccr.getLsbD 31 = false) :
    (s.regRead .maccr).getLsbD 31 = s.macRst := by
  cases hr : s.macRst with
  | false => rw [s.regRead_maccr_of_no_reset hr, h]
  | true => simp [State.regRead, hr, Maccr.swRst]

theorem State.regRead_maccr_and_not_swRst (s : State) (h : s.mac.maccr.getLsbD 31 = false) :
    s.regRead .maccr &&& ~~~Maccr.swRst = s.mac.maccr := by
  refine Eq.trans ?_ (and_not_swRst _ h)
  cases hr : s.macRst with
  | false => rw [s.regRead_maccr_of_no_reset hr]
  | true => simp [State.regRead, hr, BitVec.and_or_distrib_right]

/-- The stored word loses the masked bits and the reset flag stays: a bit 31 written back as 1 was read from a reset in
progress, and one written as 0 ends none. -/
theorem State.regWrite_maccr_and_read (s : State) (m : Word) (h : s.mac.maccr.getLsbD 31 = false) :
    s.regWrite .maccr (s.regRead .maccr &&& m) = { s with mac := { s.mac with maccr := s.mac.maccr &&& m } } := by
  have hv : s.regRead .maccr &&& m &&& ~~~Maccr.swRst = s.mac.maccr &&& m := by
    rw [BitVec.and_assoc, BitVec.and_comm m, ← BitVec.and_assoc, s.regRead_maccr_and_not_swRst h]
  have hr : (s.macRst || (s.regRead .maccr &&& m).getLsbD 31) = s.macRst := by
    rw [BitVec.getLsbD_and, s.regRead_maccr_getLsbD_31 h]
    cases s.macRst <;> rfl
  rw [State.regWrite, hv, hr]

/-- X2 (R261). -/
theorem State.stopMac_eq (s : State) (h : s.mac.maccr.getLsbD 31 = false) :
    s.stopMac = { s with mac := { s.mac with
      maccr := if s.cfg.stopClearsAll then 0#32 else s.mac.maccr &&& 0xFFFFFFF0#32 } } := by
  unfold State.stopMac
  split
  · exact s.regWrite_maccr_of_bit31_clear 0#32 BitVec.getLsbD_zero
  · exact s.regWrite_maccr_and_read _ h

/-! ## A command run alone -/

theorem runAlone_of_goes_on {i : Instr} {n : Nat} {s t : State} (he : exec i s = .next t) (ht : t.op = some i) :
    runAlone i (n + 1) s = runAlone i n t := by
  rw [runAlone, he]
  exact if_pos ht

theorem runAlone_of_ends {i : Instr} {n : Nat} {s t : State} (he : exec i s = .next t) (ht : t.op = none) :
    runAlone i (n + 1) s = .next t := by
  rw [runAlone, he]
  exact if_neg (by simp [ht])

/-! ## The phases of DEV_STOP (R261) -/

/-- X1. -/
theorem exec_devStop_first (s : State) (hp : s.phase = .first) :
    exec .devStop s =
      if s.life = .starting then .next (s.endCommand .badState 0 0#32) else .next (s.atPhase .devStop .stopX2) := by
  simp only [exec, execDevStop, hp, legal]
  cases s.life <;> rfl

/-- X2. -/
theorem exec_devStop_stopX2 (s : State) (hp : s.phase = .stopX2) :
    exec .devStop s = .next (s.stopMac.atPhase .devStop .stopX3) := by
  simp only [exec, execDevStop, hp]
  rfl

/-- X3. -/
theorem exec_devStop_stopX3 (s : State) (hp : s.phase = .stopX3) :
    exec .devStop s = .next ({ s with life := .stopped }.endCommand .ok 0 0#32) := by
  simp only [exec, execDevStop, hp]
  rfl

/-- Settles O54: the three phases, and the run alone as X1, X2 and X3 one after another. -/
theorem devStopResult : Obligations.DevStopResult := by
  refine ⟨fun s hp => ?_, fun s hp hm => ?_, exec_devStop_stopX3, fun s hp hl hm => ?_⟩
  · rw [exec_devStop_first s hp]
    exact ⟨fun hl => if_neg hl, fun hl => if_pos hl⟩
  · rw [exec_devStop_stopX2 s hp, s.stopMac_eq hm]
  · have hX1 : exec .devStop s = .next (s.atPhase .devStop .stopX2) := (exec_devStop_first s hp).trans (if_neg hl)
    have hX2 := exec_devStop_stopX2 (s.atPhase .devStop .stopX2) rfl
    have hX3 := exec_devStop_stopX3 ((s.atPhase .devStop .stopX2).stopMac.atPhase .devStop .stopX3) rfl
    rw [runAlone_of_goes_on hX1 rfl, runAlone_of_goes_on hX2 rfl, runAlone_of_ends hX3 rfl,
      State.stopMac_eq (s.atPhase .devStop .stopX2) hm]
    rfl

/-! ## The phases of DEV_SET_MAC (R263) -/

/-- A1: lifecycle before argument (R295). -/
theorem exec_devSetMac_first (s : State) (hp : s.phase = .first) :
    exec .devSetMac s =
      if s.life = .starting then .next (s.endCommand .badState 0 0#32)
      else if s.arg0.extractLsb' 16 16 = 0#16 then .next (s.atPhase .devSetMac .setMacA2)
      else .next (s.endCommand .badArg 0 0#32) := by
  simp only [exec, execDevSetMac, hp, legal]
  cases s.life <;> rfl

/-- A2. -/
theorem exec_devSetMac_setMacA2 (s : State) (hp : s.phase = .setMacA2) :
    exec .devSetMac s =
      .next ({ s with
        macAddr := macOfArgs s.arg0 s.arg1
        mac := { s.mac with macMadr := s.arg0, macLadr := s.arg1 } }.endCommand .ok 0 0#32) := by
  simp only [exec, execDevSetMac, hp]
  rfl

/-- Settles O55: A1's checks in R295's order, A2 with the address as its six bytes, and the address's two halves. -/
theorem devSetMacResult : Obligations.DevSetMacResult := by
  refine ⟨fun s hp => ?_, fun s hp => ?_, fun s ha => ⟨macHigh_macOfArgs _ _ ha, macLow_macOfArgs _ _⟩⟩
  · rw [exec_devSetMac_first s hp]
    exact ⟨fun hl => if_pos hl, fun hl ha => by rw [if_neg hl, if_neg ha], fun hl ha => by rw [if_neg hl, if_pos ha]⟩
  · rw [exec_devSetMac_setMacA2 s hp, macOfArgs_eq_bytes]

end Machine

end Sys2Proof

/-! PROOFS. The command word (30_encoding.md R120 to R126): the three fields of a word, that encoder and decoder are inverse
to each other, the opcode table's rows, and which words are ILLEGAL. -/

namespace Sys2Proof

/-! ## The fields of a command word (R120) -/

theorem toNat_cmdWord (op sub imm : Nat) :
    (cmdWord op sub imm).toNat = op % 256 * 16777216 + sub % 256 * 65536 + imm % 65536 := by
  simp only [cmdWord, BitVec.toNat_append, BitVec.toNat_ofNat]
  rw [← Nat.shiftLeft_add_eq_or_of_lt (by omega), ← Nat.shiftLeft_add_eq_or_of_lt (by omega)]
  simp only [Nat.shiftLeft_eq]
  omega

theorem cmdOp_eq (w : Word) : cmdOp w = w.toNat / 16777216 := by
  have := w.isLt
  simp only [cmdOp, BitVec.extractLsb'_toNat, Nat.shiftRight_eq_div_pow]
  omega

theorem cmdSub_eq (w : Word) : cmdSub w = w.toNat / 65536 % 256 := by
  simp [cmdSub, BitVec.extractLsb'_toNat, Nat.shiftRight_eq_div_pow]

theorem cmdImm_eq (w : Word) : cmdImm w = w.toNat % 65536 := by
  simp [cmdImm, BitVec.extractLsb'_toNat]

theorem cmdOp_cmdWord (op sub imm : Nat) : cmdOp (cmdWord op sub imm) = op % 256 := by
  rw [cmdOp_eq, toNat_cmdWord]
  omega

theorem cmdSub_cmdWord (op sub imm : Nat) : cmdSub (cmdWord op sub imm) = sub % 256 := by
  rw [cmdSub_eq, toNat_cmdWord]
  omega

theorem cmdImm_cmdWord (op sub imm : Nat) : cmdImm (cmdWord op sub imm) = imm % 65536 := by
  rw [cmdImm_eq, toNat_cmdWord]
  omega

/-- A word is made of its three fields. -/
theorem cmdWord_fields (w : Word) : cmdWord (cmdOp w) (cmdSub w) (cmdImm w) = w := by
  apply BitVec.eq_of_toNat_eq
  have := w.isLt
  rw [toNat_cmdWord, cmdOp_eq, cmdSub_eq, cmdImm_eq]
  omega

theorem cmdWord_eq_of_fields {w : Word} {op sub imm : Nat} (ho : cmdOp w = op) (hs : cmdSub w = sub)
    (hi : cmdImm w = imm) : cmdWord op sub imm = w := by
  rw [← ho, ← hs, ← hi, cmdWord_fields]

theorem cmdImm_lt (w : Word) : cmdImm w < 65536 := by
  rw [cmdImm_eq]
  omega

/-! ## The decoder's parts (R125, R126) -/

theorem decodeRing_encodeRing (r : Ring) : decodeRing (encodeRing r % 256) = .ok r := by cases r <;> rfl

theorem decodeRing_eq_ok {sub : Nat} {r : Ring} : decodeRing sub = .ok r ↔ sub = encodeRing r := by
  unfold decodeRing
  split_ifs <;> cases r <;> simp_all [encodeRing]

theorem decodeRingOnly_eq_ok {mk : Ring → Instr} {sub imm : Nat} {i : Instr} :
    decodeRingOnly mk sub imm = .ok i ↔ ∃ r, sub = encodeRing r ∧ imm = 0 ∧ i = mk r := by
  simp only [← decodeRing_eq_ok, decodeRingOnly]
  cases decodeRing sub with
  | ok r => split_ifs with h <;> simp [h, eq_comm]
  | error e => simp

theorem decodeRingIndex_eq_ok {mk : Ring → Nat → Instr} {sub imm : Nat} {i : Instr} :
    decodeRingIndex mk sub imm = .ok i ↔ ∃ r, sub = encodeRing r ∧ i = mk r imm := by
  simp only [← decodeRing_eq_ok, decodeRingIndex]
  cases decodeRing sub with
  | ok r => simp [eq_comm]
  | error e => simp

theorem decodePlain_eq_ok {j : Instr} {sub imm : Nat} {i : Instr} :
    decodePlain j sub imm = .ok i ↔ sub = 0 ∧ imm = 0 ∧ i = j := by
  unfold decodePlain
  split_ifs <;> simp [*, eq_comm]

/-! ## Encoder and decoder (R120, R122) -/

/-- Settles O1: the three fields of the encoder's word are the ones it was made of, and the decoder reads them. -/
theorem encodeThenDecode : Obligations.EncodeThenDecode := by
  intro i hwf
  have hindex {n : Nat} (h : decide (n < 65536) = true) : n % 65536 = n := Nat.mod_eq_of_lt (of_decide_eq_true h)
  cases i with
  | ringAdvance r n | ringSlot r n | ringMarkEnd r n =>
    simp [encode, decode, cmdOp_cmdWord, cmdSub_cmdWord, cmdImm_cmdWord, decodeRingIndex, decodeRing_encodeRing,
      hindex hwf]
  | ringInit r =>
    simp [encode, decode, cmdOp_cmdWord, cmdSub_cmdWord, cmdImm_cmdWord, decodeRingOnly, decodeRing_encodeRing]
  | _ => simp [encode, decode, cmdOp_cmdWord, cmdSub_cmdWord, cmdImm_cmdWord, decodePlain]

/-- Which of its arms the decoder takes: by OP, with the encoder's word for what the arm yields. -/
inductive DecodeArm (w : Word) : Except DecodeError Instr → Prop
  | ringOnly (h : cmdOp w = 0x01) : DecodeArm w (decodeRingOnly .ringInit (cmdSub w) (cmdImm w))
  | ringIndex {op : Nat} {mk : Ring → Nat → Instr} (h : cmdOp w = op) (hop : op ∈ [0x02, 0x03, 0x04])
      (hwf : ∀ r n, n < 65536 → (mk r n).wellFormed = true) (he : ∀ r n, encode (mk r n) = cmdWord op (encodeRing r) n) :
      DecodeArm w (decodeRingIndex mk (cmdSub w) (cmdImm w))
  | plain {op : Nat} {i : Instr} (h : cmdOp w = op) (hop : op ∈ [0x10, 0x11, 0x20, 0x30, 0x31, 0x40, 0x50, 0x51, 0x52])
      (hwf : i.wellFormed = true) (he : encode i = cmdWord op 0 0) :
      DecodeArm w (decodePlain i (cmdSub w) (cmdImm w))
  | unassigned
      (h : cmdOp w ∉ [0x01, 0x02, 0x03, 0x04, 0x10, 0x11, 0x20, 0x30, 0x31, 0x40, 0x50, 0x51, 0x52]) :
      DecodeArm w (.error (.unassignedOp (cmdOp w)))

theorem decode_arm (w : Word) : DecodeArm w (decode w) := by
  have hwf {n : Nat} (h : n < 65536) : decide (n < 65536) = true := decide_eq_true h
  unfold decode
  refine iteInduction (fun h => .ringOnly h) fun h1 => ?_
  refine iteInduction (fun h => .ringIndex h (by decide) (fun _ _ => hwf) fun _ _ => rfl) fun h2 => ?_
  refine iteInduction (fun h => .ringIndex h (by decide) (fun _ _ => hwf) fun _ _ => rfl) fun h3 => ?_
  refine iteInduction (fun h => .ringIndex h (by decide) (fun _ _ => hwf) fun _ _ => rfl) fun h4 => ?_
  refine iteInduction (fun h => .plain h (by decide) rfl rfl) fun h5 => ?_
  refine iteInduction (fun h => .plain h (by decide) rfl rfl) fun h6 => ?_
  refine iteInduction (fun h => .plain h (by decide) rfl rfl) fun h7 => ?_
  refine iteInduction (fun h => .plain h (by decide) rfl rfl) fun h8 => ?_
  refine iteInduction (fun h => .plain h (by decide) rfl rfl) fun h9 => ?_
  refine iteInduction (fun h => .plain h (by decide) rfl rfl) fun h10 => ?_
  refine iteInduction (fun h => .plain h (by decide) rfl rfl) fun h11 => ?_
  refine iteInduction (fun h => .plain h (by decide) rfl rfl) fun h12 => ?_
  refine iteInduction (fun h => .plain h (by decide) rfl rfl) fun h13 => ?_
  exact .unassigned (by simp [h1, h2, h3, h4, h5, h6, h7, h8, h9, h10, h11, h12, h13])

/-- Settles O2: each arm of the decoder fixes OP, SUB and IMM, and a word is made of its three fields. -/
theorem decodeThenEncode : Obligations.DecodeThenEncode := by
  intro w i h
  have harm := decode_arm w
  generalize hd : decode w = d at harm
  rw [h] at hd
  cases harm with
  | ringOnly hop =>
    obtain ⟨r, hs, hi, rfl⟩ := decodeRingOnly_eq_ok.mp hd.symm
    exact ⟨cmdWord_eq_of_fields hop hs hi, rfl⟩
  | ringIndex hop _ hwf he =>
    obtain ⟨r, hs, rfl⟩ := decodeRingIndex_eq_ok.mp hd.symm
    exact ⟨(he r _).trans (cmdWord_eq_of_fields hop hs rfl), hwf r _ (cmdImm_lt w)⟩
  | plain hop _ hwf he =>
    obtain ⟨hs, hi, rfl⟩ := decodePlain_eq_ok.mp hd.symm
    exact ⟨he.trans (cmdWord_eq_of_fields hop hs hi), hwf⟩
  | unassigned => cases hd

theorem decode_eq_ok_iff {w : Word} {i : Instr} : decode w = .ok i ↔ i.wellFormed = true ∧ encode i = w := by
  constructor
  · intro h
    exact (decodeThenEncode w i h).symm
  · rintro ⟨hwf, rfl⟩
    exact encodeThenDecode i hwf

/-- Settles O4: the decoder run on the thirteen words. -/
theorem wordsWrittenOutDecode : Obligations.WordsWrittenOutDecode := by
  unfold Obligations.WordsWrittenOutDecode
  decide

/-! ## The opcode table (R122) -/

/-- The word of a well-formed command is in the row of the opcode table that has the command's mnemonic. -/
theorem encode_in_row (i : Instr) : Laws.EncodeRow.Statement i := by
  cases i with
  | ringInit r => exact Laws.EncodeRow.ringInit r
  | ringAdvance r n => exact Laws.EncodeRow.ringAdvance r n
  | ringSlot r n => exact Laws.EncodeRow.ringSlot r n
  | ringMarkEnd r n => exact Laws.EncodeRow.ringMarkEnd r n
  | syncFlush => exact Laws.EncodeRow.syncFlush
  | syncInvalidate => exact Laws.EncodeRow.syncInvalidate
  | txSubmit => exact Laws.EncodeRow.txSubmit
  | rxPoll => exact Laws.EncodeRow.rxPoll
  | rxRelease => exact Laws.EncodeRow.rxRelease
  | linkAdjust => exact Laws.EncodeRow.linkAdjust
  | devStart => exact Laws.EncodeRow.devStart
  | devStop => exact Laws.EncodeRow.devStop
  | devSetMac => exact Laws.EncodeRow.devSetMac

/-- A mask that leaves out the low bit of SUB and all of IMM fixes OP, and SUB up to that bit. -/
theorem fields_of_ring_row {w : Word} {op : Nat} (hop : op < 256) (h : w &&& 0xFFFE0000#32 = cmdWord op 0 0) :
    cmdOp w = op ∧ ∃ r, cmdSub w = encodeRing r := by
  have hhigh : (w &&& 0xFFFE0000#32).toNat / 131072 = w.toNat / 131072 := by
    have hx : (w &&& 0xFFFE0000#32) >>> 17 = w >>> 17 := by
      refine BitVec.eq_of_getLsbD_eq fun j hj => ?_
      have hm : (0xFFFE0000#32).getLsbD (17 + j) = decide (17 + j < 32) := by
        interval_cases j <;> rfl
      rw [BitVec.getLsbD_ushiftRight, BitVec.getLsbD_ushiftRight, BitVec.getLsbD_and, hm]
      by_cases hj' : 17 + j < 32
      · simp [hj']
      · simp [hj', BitVec.getLsbD_of_ge w _ (Nat.le_of_not_lt hj')]
    simpa [BitVec.toNat_ushiftRight, Nat.shiftRight_eq_div_pow] using congrArg BitVec.toNat hx
  rw [h, toNat_cmdWord] at hhigh
  have hsub : cmdSub w = 0 ∨ cmdSub w = 1 := by
    rw [cmdSub_eq]
    omega
  refine ⟨by rw [cmdOp_eq]; omega, ?_⟩
  rcases hsub with h0 | h1
  · exact ⟨.tx, h0⟩
  · exact ⟨.rx, h1⟩

theorem decode_of_ring_row {w : Word} {op : Nat} (hop : op < 256) (h : w &&& 0xFFFE0000#32 = cmdWord op 0 0) :
    ∃ r, w = cmdWord op (encodeRing r) (cmdImm w) := by
  obtain ⟨ho, r, hs⟩ := fields_of_ring_row hop h
  exact ⟨r, (cmdWord_eq_of_fields ho hs rfl).symm⟩

/-- The row of RING_INIT holds two words. -/
theorem decode_of_ringInit_row {w : Word} (h : w &&& 0xFFFEFFFF#32 = 0x01000000#32) :
    ∃ r, w = cmdWord 1 (encodeRing r) 0 := by
  have hring : w &&& 0xFFFE0000#32 = cmdWord 1 0 0 := by
    have e := congrArg (· &&& 0xFFFE0000#32) h
    rw [BitVec.and_assoc] at e
    exact e
  have himm : cmdImm w = 0 := by
    have e := congrArg (fun v : Word => (v &&& 0xFFFF#32).toNat) h
    simp only [BitVec.and_assoc] at e
    rw [show (0xFFFEFFFF#32 &&& 0xFFFF#32 : Word) = BitVec.ofNat 32 (2 ^ 16 - 1) from rfl] at e
    rw [BitVec.toNat_and, BitVec.toNat_ofNat, Nat.mod_eq_of_lt (by decide), Nat.and_two_pow_sub_one_eq_mod] at e
    exact (cmdImm_eq w).trans e
  obtain ⟨r, hr⟩ := decode_of_ring_row (by decide) hring
  exact ⟨r, himm ▸ hr⟩

/-- A word that belongs to a row is the word of a well-formed command with the row's mnemonic. -/
theorem exists_command_of_row {row : OpcodeRow} {w : Word} (hrow : row ∈ opcodeTable) (h : row.holds w = true) :
    ∃ i : Instr, i.wellFormed = true ∧ encode i = w ∧ i.mnemonic = row.mnemonic := by
  have himm := decide_eq_true (cmdImm_lt w)
  have hall (p : Word) (e : w &&& 0xFFFFFFFF#32 = p) : p = w := by
    rw [← e]
    exact BitVec.and_allOnes
  simp only [opcodeTable, List.mem_cons, List.not_mem_nil, or_false] at hrow
  simp only [OpcodeRow.holds, beq_iff_eq] at h
  rcases hrow with rfl | rfl | rfl | rfl | rfl | rfl | rfl | rfl | rfl | rfl | rfl | rfl | rfl
  · obtain ⟨r, hw⟩ := decode_of_ringInit_row h
    exact ⟨.ringInit r, rfl, hw.symm, rfl⟩
  · obtain ⟨r, hw⟩ := decode_of_ring_row (op := 2) (by decide) h
    exact ⟨.ringAdvance r (cmdImm w), himm, hw.symm, rfl⟩
  · obtain ⟨r, hw⟩ := decode_of_ring_row (op := 3) (by decide) h
    exact ⟨.ringSlot r (cmdImm w), himm, hw.symm, rfl⟩
  · obtain ⟨r, hw⟩ := decode_of_ring_row (op := 4) (by decide) h
    exact ⟨.ringMarkEnd r (cmdImm w), himm, hw.symm, rfl⟩
  · exact ⟨.syncFlush, rfl, hall _ h, rfl⟩
  · exact ⟨.syncInvalidate, rfl, hall _ h, rfl⟩
  · exact ⟨.txSubmit, rfl, hall _ h, rfl⟩
  · exact ⟨.rxPoll, rfl, hall _ h, rfl⟩
  · exact ⟨.rxRelease, rfl, hall _ h, rfl⟩
  · exact ⟨.linkAdjust, rfl, hall _ h, rfl⟩
  · exact ⟨.devStart, rfl, hall _ h, rfl⟩
  · exact ⟨.devStop, rfl, hall _ h, rfl⟩
  · exact ⟨.devSetMac, rfl, hall _ h, rfl⟩

/-- Settles O3: words that decode are encoder's words, which stand in their own row, and each row holds only such words. -/
theorem decodesExactlyTheTable : Obligations.DecodesExactlyTheTable := by
  intro w m
  constructor
  · rintro ⟨i, hd, rfl⟩
    obtain ⟨hwf, rfl⟩ := decode_eq_ok_iff.mp hd
    exact encode_in_row i hwf
  · rintro ⟨row, hrow, rfl, h⟩
    obtain ⟨i, hwf, he, hm⟩ := exists_command_of_row hrow h
    exact ⟨i, decode_eq_ok_iff.mpr ⟨hwf, he⟩, hm⟩

/-! ## ILLEGAL words (R125, R292) -/

theorem decodeRing_error_iff {sub : Nat} : (∃ e, decodeRing sub = .error e) ↔ 1 < sub := by
  unfold decodeRing
  split_ifs with h0 h1
  · simp [h0]
  · simp [h1]
  · simp
    omega

theorem decodeRingOnly_error_iff {mk : Ring → Instr} {sub imm : Nat} :
    (∃ e, decodeRingOnly mk sub imm = .error e) ↔ 1 < sub ∨ imm ≠ 0 := by
  rw [← decodeRing_error_iff, decodeRingOnly]
  cases decodeRing sub with
  | ok r => split_ifs with h <;> simp [h]
  | error e => simp

theorem decodeRingIndex_error_iff {mk : Ring → Nat → Instr} {sub imm : Nat} :
    (∃ e, decodeRingIndex mk sub imm = .error e) ↔ 1 < sub := by
  rw [← decodeRing_error_iff, decodeRingIndex]
  cases decodeRing sub <;> simp

theorem decodePlain_error_iff {i : Instr} {sub imm : Nat} :
    (∃ e, decodePlain i sub imm = .error e) ↔ sub ≠ 0 ∨ imm ≠ 0 := by
  unfold decodePlain
  split_ifs <;> simp [*]

/-- R125: which words are ILLEGAL, from their fields. -/
theorem decode_error_iff (w : Word) : (∃ e, decode w = .error e) ↔
    (cmdOp w ∉ [0x01, 0x02, 0x03, 0x04, 0x10, 0x11, 0x20, 0x30, 0x31, 0x40, 0x50, 0x51, 0x52] ∨
      (cmdOp w ∈ [0x01, 0x02, 0x03, 0x04] ∧ 1 < cmdSub w) ∨
      (cmdOp w ∉ [0x01, 0x02, 0x03, 0x04] ∧ cmdSub w ≠ 0) ∨
      (cmdOp w ∉ [0x02, 0x03, 0x04] ∧ cmdImm w ≠ 0)) := by
  have harm := decode_arm w
  generalize decode w = d at harm
  cases harm with
  | ringOnly hop => simp [decodeRingOnly_error_iff, hop]
  | ringIndex hop hmem =>
    rw [decodeRingIndex_error_iff, hop]
    simp only [List.mem_cons, List.not_mem_nil, or_false] at hmem
    rcases hmem with rfl | rfl | rfl <;> simp
  | plain hop hmem =>
    rw [decodePlain_error_iff, hop]
    simp only [List.mem_cons, List.not_mem_nil, or_false] at hmem
    rcases hmem with rfl | rfl | rfl | rfl | rfl | rfl | rfl | rfl | rfl <;> simp
  | unassigned hop => simp [hop]

namespace Machine

/-- Settles O5: the decoder's refusals by OP, SUB and IMM, and the end of the command that such a word is. -/
theorem illegalCommands : Obligations.IllegalCommands := by
  refine ⟨fun w => ?_, fun w e s hd hb ho hp => ?_⟩
  · have hsub : w.extractLsb' 16 8 ≠ 0#8 ↔ cmdSub w ≠ 0 := by simp [cmdSub, ← BitVec.toNat_inj]
    have himm : w.extractLsb' 0 16 ≠ 0#16 ↔ cmdImm w ≠ 0 := by simp [cmdImm, ← BitVec.toNat_inj]
    rw [hsub, himm]
    exact decode_error_iff w
  · have hend : softwareAccess (.writeCmd w) s = .next (State.endCommand { s with cmd := w } .illegal 0 0#32) := by
      simp [softwareAccess, hb, startCommand, hd, illegalCommand]
    have hres : resultWord .illegal 0 = 0xFF000000#32 := by decide
    rw [hend, State.endCommand, hres, ← hb, ← ho, ← hp]

end Machine

end Sys2Proof

/-! PROOFS. Everything one step of the machine can do, said once: `step s = .next t` gives `StepCase s t`, one constructor for
each turn of each agent (00_scope.md R7, R12); and what a phase of a command does beside memory and cache (`Effect`). -/

namespace Sys2Proof.Machine

/-! ## The turns (R7, R22, R132) -/

/-- The state that a turn of the software agent acts on: its draws, and the accesses that are left. -/
def State.turned (s : State) (d : Draw) (rs : List Request) : State :=
  { s with agenda := s.agenda.tail, ticks := s.ticks + 1, draw := d, requests := rs }

/-- The state in which a command that was just written to CMD takes its first phase (R22, R23). -/
def State.begun (s : State) (w : Word) : State := { s with cmd := w, phase := .first }

/-- What one step can be. -/
inductive StepCase (s : State) : State → Prop
  | runs {pick phy i t} (ht : s.nextTurn = .software pick phy) (ho : s.op = some i)
      (h : CommandStep i (s.turned ⟨pick, phy⟩ s.requests) t) : StepCase s t
  | starts {pick phy w i t} (ht : s.nextTurn = .software pick phy) (ho : s.op = none) (hb : s.busy = false)
      (h : CommandStep i ((s.turned ⟨pick, phy⟩ s.requests.tail).begun w) t) : StepCase s t
  | illegal {pick phy w} (ht : s.nextTurn = .software pick phy) (ho : s.op = none) (hb : s.busy = false) :
      StepCase s (illegalCommand { s.turned ⟨pick, phy⟩ s.requests.tail with cmd := w })
  | pause {pick phy} (ht : s.nextTurn = .software pick phy) (ho : s.op = none) :
      StepCase s (s.turned ⟨pick, phy⟩ s.requests.tail)
  | arg0 {pick phy v} (ht : s.nextTurn = .software pick phy) (ho : s.op = none) (hb : s.busy = false) :
      StepCase s { s.turned ⟨pick, phy⟩ s.requests.tail with arg0 := v }
  | arg1 {pick phy v} (ht : s.nextTurn = .software pick phy) (ho : s.op = none) (hb : s.busy = false) :
      StepCase s { s.turned ⟨pick, phy⟩ s.requests.tail with arg1 := v }
  | load {pick phy index} (ht : s.nextTurn = .software pick phy) (ho : s.op = none) :
      StepCase s ((s.turned ⟨pick, phy⟩ s.requests.tail).memReadState (wordIndexAddr index))
  | store {pick phy index v} (ht : s.nextTurn = .software pick phy) (ho : s.op = none)
      (hq : s.takeTurn.nextRequest = .store index v) :
      StepCase s ((s.turned ⟨pick, phy⟩ s.requests.tail).memWrite (wordIndexAddr index) v)
  | txDma {pick x reserved} (ht : s.nextTurn = .txDma pick x reserved) : StepCase s (txDmaTurn pick x reserved s.takeTurn)
  | wire {f} (ht : s.nextTurn = .wire f) : StepCase s (wireTurn f s.takeTurn)
  | rxDma {pick} (ht : s.nextTurn = .rxDma pick) : StepCase s (rxDmaTurn pick s.takeTurn)
  | cacheWriteBack {a keep} (ht : s.nextTurn = .cacheWriteBack a keep) : StepCase s (cacheWriteBackTurn a keep s.takeTurn)
  | cacheFill {a} (ht : s.nextTurn = .cacheFill a) : StepCase s (cacheFillTurn a s.takeTurn)
  | cacheDrop {a} (ht : s.nextTurn = .cacheDrop a) : StepCase s (cacheDropTurn a s.takeTurn)
  | mac {regs p q} (ht : s.nextTurn = .mac regs p q) : StepCase s (macTurn regs p q s.takeTurn)
  | timer (ht : s.nextTurn = .timer) : StepCase s (timerTurn s.takeTurn)

theorem step_of_turn {s : State} {tn : Turn} (h : s.nextTurn = tn) : step s = runTurn tn s.takeTurn := by rw [step, h]

theorem softwareTurn_of_some {s : State} {i : Instr} (ho : s.op = some i) : softwareTurn s = exec i s := by
  unfold softwareTurn
  split
  · next j hj =>
    rw [ho] at hj
    cases hj
    rfl
  · next hj => simp [ho] at hj

theorem softwareTurn_of_none {s : State} (ho : s.op = none) :
    softwareTurn s = softwareAccess s.nextRequest { s with requests := s.requests.tail } := by
  unfold softwareTurn
  split
  · next j hj => simp [ho] at hj
  · rfl

/-- The running command's next phase (R12, R23). -/
theorem step_of_running {s : State} {pick : Nat} {phy : PhyAnswer} {i : Instr} (ht : s.nextTurn = .software pick phy)
    (ho : s.op = some i) : step s = exec i (s.turned ⟨pick, phy⟩ s.requests) := by
  have e : step s = softwareTurn (s.turned ⟨pick, phy⟩ s.requests) := step_of_turn ht
  exact e.trans (softwareTurn_of_some ho)

/-- The software agent's own access (R22, R70). -/
theorem step_of_idle {s : State} {pick : Nat} {phy : PhyAnswer} (ht : s.nextTurn = .software pick phy)
    (ho : s.op = none) :
    step s = softwareAccess s.takeTurn.nextRequest (s.turned ⟨pick, phy⟩ s.requests.tail) := by
  have e : step s = softwareTurn (s.turned ⟨pick, phy⟩ s.requests) := step_of_turn ht
  exact e.trans (softwareTurn_of_none ho)

theorem startCommand_of_ok {w : Word} {i : Instr} (s : State) (hd : decode w = .ok i) :
    startCommand w s = exec i (s.begun w) := by
  rw [startCommand, hd]
  rfl

theorem startCommand_of_error {w : Word} {e : DecodeError} (s : State) (hd : decode w = .error e) :
    startCommand w s = .next (illegalCommand { s with cmd := w }) := by rw [startCommand, hd]

/-- A write of ARG0, ARG1 or CMD is answered only while BUSY is 0 (R22). -/
theorem next_of_not_refused {busy : Bool} {a : Answer} {t : State}
    (h : (if busy then .refused .writeWhileBusy else a) = (.next t : Answer)) : busy = false ∧ a = .next t := by
  cases busy with
  | false => exact ⟨rfl, h⟩
  | true => cases h

theorem stepCase_of_access {s t : State} {pick : Nat} {phy : PhyAnswer} (ht : s.nextTurn = .software pick phy)
    (ho : s.op = none) (h : softwareAccess s.takeTurn.nextRequest (s.turned ⟨pick, phy⟩ s.requests.tail) = .next t) :
    StepCase s t := by
  cases hq : s.takeTurn.nextRequest with
  | pause =>
    rw [hq] at h
    cases h
    exact .pause ht ho
  | load index =>
    rw [hq] at h
    cases h
    exact .load ht ho
  | store index v =>
    rw [hq] at h
    cases h
    exact .store ht ho hq
  | writeArg0 v =>
    rw [hq] at h
    obtain ⟨hb, ha⟩ := next_of_not_refused h
    cases ha
    exact .arg0 ht ho hb
  | writeArg1 v =>
    rw [hq] at h
    obtain ⟨hb, ha⟩ := next_of_not_refused h
    cases ha
    exact .arg1 ht ho hb
  | writeCmd w =>
    rw [hq] at h
    obtain ⟨hb, h⟩ := next_of_not_refused h
    cases hd : decode w with
    | ok i =>
      rw [startCommand_of_ok _ hd] at h
      exact .starts ht ho hb (exec_cases h)
    | error e =>
      rw [startCommand_of_error _ hd] at h
      cases h
      exact .illegal ht ho hb

/-- Everything a step can do. -/
theorem step_cases {s t : State} (h : step s = .next t) : StepCase s t := by
  cases ht : s.nextTurn with
  | software pick phy =>
    cases ho : s.op with
    | some i => exact .runs ht ho (exec_cases ((step_of_running ht ho).symm.trans h))
    | none => exact stepCase_of_access ht ho ((step_of_idle ht ho).symm.trans h)
  | txDma pick x reserved => rw [step_of_turn ht] at h; cases h; exact .txDma ht
  | wire f => rw [step_of_turn ht] at h; cases h; exact .wire ht
  | rxDma pick => rw [step_of_turn ht] at h; cases h; exact .rxDma ht
  | cacheWriteBack a keep => rw [step_of_turn ht] at h; cases h; exact .cacheWriteBack ht
  | cacheFill a => rw [step_of_turn ht] at h; cases h; exact .cacheFill ht
  | cacheDrop a => rw [step_of_turn ht] at h; cases h; exact .cacheDrop ht
  | mac regs p q => rw [step_of_turn ht] at h; cases h; exact .mac ht
  | timer => rw [step_of_turn ht] at h; cases h; exact .timer ht

/-! ## The statements about a step -/

theorem wordIndexAddr_eq (index : BitVec 30) : wordIndexAddr index = BitVec.ofNat 32 (4 * index.toNat) := by
  apply BitVec.eq_of_toNat_eq
  have h : (index ++ 0#2).toNat = index.toNat <<< 2 ||| 0 := BitVec.toNat_append index 0#2
  have hlt := index.isLt
  rw [wordIndexAddr, h, Nat.or_zero, Nat.shiftLeft_eq, BitVec.toNat_ofNat]
  omega

/-- Settles O6: the software agent's turn by whether a command runs, and each of its accesses. -/
theorem stepRunsTheCommand : Obligations.StepRunsTheCommand := by
  refine ⟨fun s pick phy w i ht ho hb hq hd => ?_, fun s pick phy i ht ho => step_of_running ht ho,
    fun s pick phy ht ho => step_of_idle ht ho, fun s v => ⟨rfl, fun hb => ?_, fun hb => ?_⟩, fun s index v => ?_,
    fun s a v => ⟨?_, rfl⟩⟩
  · have hb' : (s.turned ⟨pick, phy⟩ s.requests.tail).busy = false := hb
    rw [step_of_idle ht ho, hq, softwareAccess, hb', if_neg Bool.false_ne_true, startCommand_of_ok _ hd]
    rfl
  · simp [softwareAccess, hb]
  · simp [softwareAccess, hb]
  · rw [← wordIndexAddr_eq]
    exact ⟨rfl, rfl⟩
  · have hmem : (s.memReadState a).mem = s.mem := Store.afterRead_mem s.cfg a s.store
    calc s.memReadState a
        = { s with mem := (s.memReadState a).mem, cache := (s.memReadState a).cache } := rfl
      _ = { s with cache := (s.memReadState a).cache } := by rw [hmem]

theorem tableWord_toNat (w : Word) : tableWord 32 w.toNat = w := by
  rw [tableWord, Nat.mod_eq_of_lt w.isLt]
  exact BitVec.eq_of_toNat_eq (by simp)

/-- Settles O7: the placed turn is the software agent's, and its placed access is the write of the word. -/
theorem stepRunsTheFetchWord : Obligations.StepRunsTheFetchWord := by
  intro s w i hd
  rw [State.withFetchWord, tableWord_toNat]
  have hidle := step_of_idle (s := s.withCommand w) (pick := 0) (phy := .transport) rfl rfl
  exact hidle.trans (startCommand_of_ok _ hd)

/-- Settles O8: the turn of each of the other agents. -/
theorem stepRunsTheAgents : Obligations.StepRunsTheAgents := fun _ =>
  ⟨fun _ _ _ ht => step_of_turn ht, fun _ ht => step_of_turn ht, fun _ ht => step_of_turn ht,
    fun _ _ ht => step_of_turn ht, fun _ ht => step_of_turn ht, fun _ ht => step_of_turn ht,
    fun _ _ _ ht => step_of_turn ht, fun ht => step_of_turn ht⟩

theorem idle_of_seqOk {s : State} (h : s.seqOk = true) (ho : s.op = none) :
    s.busy = false ∧ s.phase = .first ∧ s.life ≠ .starting := by
  simpa [State.seqOk, ho] using h

theorem running_of_seqOk {s : State} {i : Instr} (h : s.seqOk = true) (ho : s.op = some i) :
    s.busy = true ∧ later i s.phase = true ∧ lifeFits i s.phase s.life = true := by
  simpa [State.seqOk, ho] using h

theorem startCommand_next (w : Word) (s : State) : ∃ t, startCommand w s = .next t := by
  cases hd : decode w with
  | ok i =>
    obtain ⟨t, h, -⟩ := exec_answers i (s.begun w)
    exact ⟨t, (startCommand_of_ok s hd).trans h⟩
  | error e => exact ⟨_, startCommand_of_error s hd⟩

/-- The software agent is not refused an access while BUSY is 0 (R22). -/
theorem softwareAccess_next (q : Request) (s : State) (hb : s.busy = false) : ∃ t, softwareAccess q s = .next t := by
  cases q with
  | writeCmd w =>
    obtain ⟨t, h⟩ := startCommand_next w s
    exact ⟨t, by simp [softwareAccess, hb, h]⟩
  | _ => simp [softwareAccess, hb]

/-- Settles O13: a phase always answers a next state, an idle software agent has BUSY 0 and so is refused nothing, and
every other agent's turn is a function of the state. -/
theorem stepNeverStops : Obligations.StepNeverStops := by
  intro s hs
  cases ht : s.nextTurn with
  | software pick phy =>
    cases ho : s.op with
    | some i =>
      obtain ⟨t, h, -⟩ := exec_answers i (s.turned ⟨pick, phy⟩ s.requests)
      exact ⟨t, (step_of_running ht ho).trans h⟩
    | none =>
      obtain ⟨t, h⟩ := softwareAccess_next s.takeTurn.nextRequest (s.turned ⟨pick, phy⟩ s.requests.tail)
        (idle_of_seqOk hs ho).1
      exact ⟨t, (step_of_idle ht ho).trans h⟩
  | _ => exact ⟨_, step_of_turn ht⟩

/-! ## Power-on and results (R55, R121, R130) -/

/-- Settles O9: the fields of the power-on state, and MACCR as it reads with no reset in progress. -/
theorem powerOnValues : Obligations.PowerOnValues :=
  ⟨rfl, fun _ => ⟨rfl, rfl, rfl, rfl, rfl, rfl, rfl, rfl, rfl, rfl, by
    simp [State.regRead, State.powerOn, MacRegs.powerOn]⟩⟩

theorem powerOn_sound (c : Config) (h : c.wellFormed = true) : (State.powerOn c).sound = true := by
  have htx : 0 < c.txCap := (capacityOk_bounds (c.ring_of_wellFormed .tx h).1).1
  have hrx : 0 < c.rxCap := (capacityOk_bounds (c.ring_of_wellFormed .rx h).1).1
  have hcur : (State.powerOn c).cursorsOk = true := by simp [State.cursorsOk, State.powerOn, htx, hrx]
  have hstore : (State.powerOn c).storeOk = true := by
    simp [State.storeOk, State.powerOn, Memory.wf, Memory.wfFrom, Cache.wf, Cache.wfFrom]
  have hmac : (State.powerOn c).maccrOk = true := by simp [State.maccrOk, State.powerOn, MacRegs.powerOn]
  rw [State.sound, hcur, hstore, hmac]
  rfl

/-- Settles O10: under a well-formed configuration the capacities are not 0, which is all that the cursors need. -/
theorem powerOnSound : Obligations.PowerOnSound :=
  ⟨powerOn_sound Config.reference (by decide), powerOn_sound⟩

/-- Settles O14: the two fields of the result word, and the eleven codes. -/
theorem resultWordFields : Obligations.ResultWordFields :=
  ⟨fun s st v r1 => ⟨s.endCommand_statusCode st v r1, s.endCommand_resultValue st v r1, rfl, rfl, rfl⟩, by decide⟩

/-! ## What a phase does beside memory and cache -/

/-- What a phase of a command does to the registers, by how it ends: `none` when the command goes on, else its status. -/
inductive Effect : Instr → State → Option Status → State → Prop
  | nothing {i s o} : Effect i s o s
  | rewinds {i s o} (r : Ring) (hi : i = .ringInit r ∨ i = .devStart) : Effect i s o (s.rewind r)
  | doorbell {s} (h : s.phase = .txT6) : Effect .txSubmit s none { s with txKick := true, expired := false }
  | txAdvances {s} : Effect .txSubmit s (some .ok) { s with txCur := s.cfg.advance .tx s.txCur }
  | rxTakes {s} : Effect .rxPoll s (some .ok) { s with rxOut := true, rxOutSlot := s.rxCur }
  | rxGives {s} : Effect .rxRelease s (some .ok) { s with rxCur := s.cfg.advance .rx s.rxCur, rxOut := false }
  | links {i s o ls} (hi : (i = .linkAdjust ∧ s.phase = .linkK2 ls) ∨ (i = .devStart ∧ s.phase = .devS12 ls)) :
      Effect i s o (s.linkWrite ls)
  | startsUp {s} (h : s.phase = .devS2) : Effect .devStart s none { s with life := .starting }
  | fails {s st} (h : later .devStart s.phase = true)
      (hst : st = .config ∨ st = .resetTimeout ∨ st = .transport ∨ st = .noLink) :
      Effect .devStart s (some st) { s with life := .error }
  | resets {s} (h : s.phase = .devS3) : Effect .devStart s none s.startReset
  | programsMac {s} : Effect .devStart s none s.programMac
  | clearsIer {s} : Effect .devStart s none (s.regWrite .ier 0#32)
  | programsRings {s} : Effect .devStart s none s.programRings
  | enables {s} (h : s.phase = .devS10) : Effect .devStart s none s.enableMac
  | running {s} (h : s.phase = .devS13) : Effect .devStart s (some .ok) { s with life := .running }
  | clearsEnables {s} (h : s.phase = .stopX2) : Effect .devStop s none s.stopMac
  | stops {s} (h : s.phase = .stopX3) : Effect .devStop s (some .ok) { s with life := .stopped }
  | setsMac {s} : Effect .devSetMac s (some .ok) s.setMac

/-- How a phase ends, once its registers are `v`: with another memory and cache, and on in the command or at its end with
a status of the command (R121, R291). -/
inductive Lands (i : Instr) (v : State) : Option Status → State → Prop
  | goesOn (m : Memory) (x : Cache) (p : Phase) : Lands i v none ({ v with mem := m, cache := x }.atPhase i p)
  | ends (m : Memory) (x : Cache) (st : Status) (value : Nat) (r1 : Word) (hst : st ∈ statusesOf i)
      (h0 : st ≠ .ok → value = 0 ∧ r1 = 0#32) :
      Lands i v (some st) ({ v with mem := m, cache := x }.endCommand st value r1)

/-- The phase has an effect and lands. -/
def Done (i : Instr) (s t : State) : Prop := ∃ o v, Effect i s o v ∧ Lands i v o t

theorem Done.goesOn {i : Instr} {s v : State} (p : Phase) (h : Effect i s none v) : Done i s (v.atPhase i p) :=
  ⟨none, v, h, .goesOn v.mem v.cache p⟩

theorem Done.ends {i : Instr} {s v : State} {st : Status} {value : Nat} {r1 : Word} (h : Effect i s (some st) v)
    (hst : st ∈ statusesOf i) (h0 : st ≠ .ok → value = 0 ∧ r1 = 0#32) : Done i s (v.endCommand st value r1) :=
  ⟨some st, v, h, .ends v.mem v.cache st value r1 hst h0⟩

theorem Done.stores {i : Instr} {s : State} (m : Memory) (x : Cache) (p : Phase) :
    Done i s ({ s with mem := m, cache := x }.atPhase i p) := ⟨none, s, .nothing, .goesOn m x p⟩

theorem Done.storesLast {i : Instr} {s : State} {m : Memory} {x : Cache} {st : Status} (hst : st ∈ statusesOf i) :
    Done i s ({ s with mem := m, cache := x }.endCommand st 0 0#32) :=
  ⟨some st, s, .nothing, .ends m x st 0 0#32 hst fun _ => ⟨rfl, rfl⟩⟩

theorem Done.ringGoesOn {i : Instr} {r : Ring} {p q : RingPhase} {s u : State} (h : ringInitStep r p s = (u, some q))
    (p' : Phase) : Done i s (u.atPhase i p') := by
  rcases ringInitStep_frame h with ⟨-, hu⟩ | ⟨hq, -⟩
  · rw [hu]
    exact .stores _ _ _
  · cases hq

theorem eq_rewind_of_ringInitStep {r : Ring} {p : RingPhase} {s u : State} (h : ringInitStep r p s = (u, none)) :
    p = .i6 ∧ u = s.rewind r := by
  rcases ringInitStep_frame h with ⟨hq, -⟩ | ⟨-, hp, hu⟩
  · cases hq
  · exact ⟨hp, hu⟩

/-- Every outcome of a phase is an effect on the registers, another memory and cache, and an end. -/
theorem CommandStep.done {i : Instr} {s t : State} (h : CommandStep i s t) : Done i s t := by
  have hz (st : Status) : st ≠ .ok → (0 : Nat) = 0 ∧ 0#32 = 0#32 := fun _ => ⟨rfl, rfl⟩
  cases h with
  | badState h hl =>
    have hst : Status.badState ∈ statusesOf i := by cases i <;> simp_all [statusesOf, legal]
    exact .ends .nothing hst (hz _)
  | ringGoesOn h hs => exact .ringGoesOn hs _
  | startTxRing h hs => exact .ringGoesOn hs _
  | startRxRing h hs => exact .ringGoesOn hs _
  | ringEnds h hs =>
    obtain ⟨-, rfl⟩ := eq_rewind_of_ringInitStep hs
    exact .ends (.rewinds _ (.inl rfl)) (by simp [statusesOf]) (hz _)
  | startTxRingEnds h hs | startRxRingEnds h hs =>
    obtain ⟨-, rfl⟩ := eq_rewind_of_ringInitStep hs
    exact .goesOn _ (.rewinds _ (.inr rfl))
  | advanced => exact .ends .nothing (by simp [statusesOf]) fun h => absurd rfl h
  | slotGiven h => exact .ends .nothing (by simp [statusesOf]) fun h => absurd rfl h
  | slotBadArg | markBadArg | flushBadArg | invalidateBadArg | txBadArg | rxPollOutstanding | rxReleaseNone
  | linkBadArg | linkNoLink | setMacBadArg => exact .ends .nothing (by simp [statusesOf]) (hz _)
  | ringBegin | markBegins | flushBegins | invalidateBegins | rxReleaseBegins | linkBegins | startBegins | stopBegins
  | setMacBegins | startResetDone | startResetWaits | startLink => exact .goesOn _ .nothing
  | marked h => exact .storesLast (by simp [statusesOf])
  | flushLine h ho | invalidateLine h ho | txT1Line h ho | txT3Line h ho | txT5Line h ho | txT7Line h ho | rxP1Line h ho =>
    obtain ⟨m, x, rfl⟩ := ho.frame
    exact .stores _ _ _
  | flushEnds h ho | invalidateEnds h ho =>
    obtain ⟨m, x, rfl⟩ := ho.frame
    exact .storesLast (by simp [statusesOf])
  | txNoDesc h ho hw | txTimeout h ho hw he | rxNoPacket h ho hw =>
    obtain ⟨m, x, rfl⟩ := ho.frame
    exact .storesLast (by simp [statusesOf])
  | txSlotFree h ho hw | txDone h ho hw | txWaits h ho hw he | rxPacket h ho hw hb | txT3Ends h ho | txT5Ends h ho =>
    obtain ⟨m, x, rfl⟩ := ho.frame
    exact .stores _ _ _
  | txAddress h | txWord0 h => exact .stores _ _ _
  | txDoorbell h => exact .goesOn _ (.doorbell h)
  | txEnds h => exact .ends .txAdvances (by simp [statusesOf]) (hz _)
  | rxP2Line h ho | rxP2Ends h ho =>
    obtain ⟨m, x, rfl⟩ := h.frame
    obtain ⟨m', x', rfl⟩ := ho.frame
    exact .stores _ _ _
  | rxL2Line h ho | rxL2Ends h ho =>
    obtain ⟨m, x, rfl⟩ := h.frame
    obtain ⟨m', x', rfl⟩ := ho.frame
    exact .stores _ _ _
  | rxPollEnds h => exact .ends .rxTakes (by simp [statusesOf]) fun h => absurd rfl h
  | rxReleaseEnds h => exact .ends .rxGives (by simp [statusesOf]) (hz _)
  | linkEnds h hr => exact .ends (.links (.inl ⟨rfl, h⟩)) (by simp [statusesOf]) fun h => absurd rfl h
  | startConfigOk h => exact .goesOn _ (.startsUp h)
  | startConfigBad h => exact .ends (.fails (by rw [h]; rfl) (.inl rfl)) (by simp [statusesOf]) (hz _)
  | startResetTimeout h =>
    exact .ends (.fails (by rw [h]; rfl) (.inr (.inl rfl))) (by simp [statusesOf]) (hz _)
  | startTransport h =>
    exact .ends (.fails (by rw [h]; rfl) (.inr (.inr (.inl rfl)))) (by simp [statusesOf]) (hz _)
  | startNoLink h =>
    exact .ends (.fails (by rw [h]; rfl) (.inr (.inr (.inr rfl)))) (by simp [statusesOf]) (hz _)
  | startReset h => exact .goesOn _ (.resets h)
  | startMac => exact .goesOn _ .programsMac
  | startIer => exact .goesOn _ .clearsIer
  | startRegisters => exact .goesOn _ .programsRings
  | startEnables h => exact .goesOn _ (.enables h)
  | startLinkApplied h => exact .goesOn _ (.links (.inr ⟨rfl, h⟩))
  | startEnds h => exact .ends (.running h) (by simp [statusesOf]) (hz _)
  | stopMac h => exact .goesOn _ (.clearsEnables h)
  | stopEnds h => exact .ends (.stops h) (by simp [statusesOf]) (hz _)
  | setMacEnds => exact .ends .setsMac (by simp [statusesOf]) (hz _)

/-- Settles O15: only the ends of a phase name no command, and each of them has a status of the command's list. -/
theorem statusesOfCommands : Obligations.StatusesOfCommands := by
  intro i s t h hop
  obtain ⟨o, v, -, hl⟩ := (exec_cases h).done
  cases hl with
  | goesOn m x p => cases hop
  | ends m x st value r1 hst h0 =>
    refine ⟨st, hst, State.endCommand_statusCode _ _ _ _, fun hne => ?_⟩
    obtain ⟨rfl, rfl⟩ := h0 hne
    exact ⟨State.endCommand_resultValue _ _ _ _, rfl⟩

end Sys2Proof.Machine

/-! PROOFS. What follows from the effect of a phase alone: the frame of each command (10_state.md R20 to R29), the lifecycle
(R255), the timer flag (R301), the writers of MACCR (R342), and the MAC agent's completion of a reset (R325). -/

namespace Sys2Proof.Machine

/-! ## The frame of a phase -/

/-- No phase changes the inputs, the operands, the DMA agents' records or the wire. -/
theorem Effect.fixed {i : Instr} {s v : State} {o : Option Status} (h : Effect i s o v) :
    v.cfg = s.cfg ∧ v.cmd = s.cmd ∧ v.arg0 = s.arg0 ∧ v.arg1 = s.arg1 ∧ v.txd = s.txd ∧ v.rxd = s.rxd ∧
      v.wireTx = s.wireTx ∧ v.agenda = s.agenda ∧ v.requests = s.requests ∧ v.ticks = s.ticks ∧ v.draw = s.draw ∧
      v.res0 = s.res0 ∧ v.res1 = s.res1 := by
  cases h with
  | rewinds r hi => simp
  | stops h => simp
  | clearsEnables h => unfold State.stopMac; split <;> simp
  | _ => simp [State.linkWrite, State.startReset, State.programMac, State.programRings, State.enableMac, State.setMac]

/-- Which commands write which registers. -/
theorem Effect.written {i : Instr} {s v : State} {o : Option Status} (h : Effect i s o v) :
    (i ∉ [.devStart, .devStop] → v.life = s.life) ∧
    (i ≠ .devSetMac → v.macAddr = s.macAddr) ∧
    (i ∉ [.linkAdjust, .devStart, .devStop, .devSetMac] → v.mac = s.mac) ∧
    (i ∉ [.linkAdjust, .devStart, .devStop] → v.macRst = s.macRst) ∧
    (i ≠ .devStart → v.txHwptr = s.txHwptr ∧ v.rxHwptr = s.rxHwptr) ∧
    (i ≠ .txSubmit → v.txKick = s.txKick) ∧
    (i ∉ [.txSubmit, .devStart] → v.expired = s.expired) ∧
    (i ∉ [.ringInit .tx, .txSubmit, .devStart] → v.txCur = s.txCur) ∧
    (i ∉ [.ringInit .rx, .rxRelease, .devStart] → v.rxCur = s.rxCur) ∧
    (i ∉ [.ringInit .rx, .rxPoll, .rxRelease, .devStart] → v.rxOut = s.rxOut) ∧
    (i ≠ .rxPoll → v.rxOutSlot = s.rxOutSlot) := by
  cases h with
  | rewinds r hi => rcases hi with rfl | rfl <;> cases r <;> simp [State.rewind]
  | links hi => rcases hi with ⟨rfl, -⟩ | ⟨rfl, -⟩ <;> simp [State.linkWrite]
  | clearsEnables h => unfold State.stopMac; split <;> simp
  | setsMac => simp [State.setMac, State.regWrite]
  | programsMac => simp [State.programMac, State.regWrite]
  | clearsIer => simp [State.regWrite]
  | programsRings => simp [State.programRings, State.regWrite]
  | _ => simp [State.startReset, State.enableMac]

/-- How a phase ends beside its registers: the command goes on and writes no result, or it ends. -/
theorem Lands.ended {i : Instr} {v t : State} {o : Option Status} (h : Lands i v o t) :
    (t.op = none ∧ t.busy = false ∧ t.phase = .first) ∨
      (t.op = some i ∧ t.busy = true ∧ t.res0 = v.res0 ∧ t.res1 = v.res1) := by
  cases h with
  | goesOn m x p => exact .inr ⟨rfl, rfl, rfl, rfl⟩
  | ends m x st value r1 hst h0 => exact .inl ⟨rfl, rfl, rfl⟩

/-- What landing leaves of the registers: all but the sequencing and the results. -/
theorem Lands.registers {i : Instr} {v t : State} {o : Option Status} (h : Lands i v o t) :
    t = { v with mem := t.mem, cache := t.cache, op := t.op, busy := t.busy, phase := t.phase, res0 := t.res0,
                 res1 := t.res1 } := by
  cases h <;> rfl

/-- Settles O17: the effect's frame, since landing changes memory, cache, sequencing and results only. -/
theorem commandFrame : Obligations.CommandFrame := by
  intro i s t h
  obtain ⟨o, v, he, hl⟩ := (exec_cases h).done
  obtain ⟨hcfg, hcmd, h0, h1, htxd, hrxd, hwire, hag, hrq, htick, hdraw, hr0, hr1⟩ := he.fixed
  refine ⟨?_, ?_, ?_⟩
  · rw [hl.registers]
    exact ⟨hcfg, hcmd, h0, h1, htxd, hrxd, hwire, hag, hrq, htick, hdraw⟩
  · rw [← hr0, ← hr1]
    exact hl.ended
  · rw [hl.registers]
    exact he.written

theorem CommandStep.cfg_eq {i : Instr} {s t : State} (h : CommandStep i s t) : t.cfg = s.cfg := by
  obtain ⟨o, v, he, hl⟩ := h.done
  rw [hl.registers]
  exact he.fixed.1

/-! ## What the agents leave alone -/

/-- A list of DMA writes changes memory only. -/
theorem State.dmaWriteAll_frame (s : State) (ws : List (Word × Word)) :
    s.dmaWriteAll ws = { s with mem := (s.dmaWriteAll ws).mem } := by
  induction ws generalizing s with
  | nil => rfl
  | cons w rest ih =>
    rw [State.dmaWriteAll, ih (s.dmaWrite w.1 w.2)]
    rfl

theorem txReadByte_frame (pick : Nat) (w b : Word) (todo : List Nat) (buf : List Byte) (s : State) :
    txReadByte pick w b todo buf s = { s with
      wireTx := (txReadByte pick w b todo buf s).wireTx, txd := (txReadByte pick w b todo buf s).txd } := by
  unfold txReadByte
  split
  · rfl
  · split <;> rfl

/-- The TX DMA agent changes memory, its record and pointer, the kick and the wire. -/
theorem txDmaTurn_frame (pick : Nat) (x : Word) (reserved : List (Nat × Word)) (s : State) :
    txDmaTurn pick x reserved s = { s with
      mem := (txDmaTurn pick x reserved s).mem
      txd := (txDmaTurn pick x reserved s).txd
      txHwptr := (txDmaTurn pick x reserved s).txHwptr
      txKick := (txDmaTurn pick x reserved s).txKick
      wireTx := (txDmaTurn pick x reserved s).wireTx } := by
  cases hen : s.txEnabled with
  | false => simp [txDmaTurn, hen]
  | true =>
    cases htxd : s.txd with
    | idle =>
      simp only [txDmaTurn, hen, htxd, if_true]
      split
      · split <;> simp [← htxd]
      · rfl
    | fetched w => simp [txDmaTurn, hen, htxd]
    | addressed w b todo buf =>
      simp only [txDmaTurn, hen, htxd, if_true]
      rw [txReadByte_frame]
    | sent w =>
      simp only [txDmaTurn, hen, htxd, if_true]
      rw [State.dmaWriteAll_frame]
      rfl

/-- The RX DMA agent changes memory, its record and its pointer. -/
theorem rxDmaTurn_frame (pick : Nat) (s : State) :
    rxDmaTurn pick s = { s with
      mem := (rxDmaTurn pick s).mem, rxd := (rxDmaTurn pick s).rxd, rxHwptr := (rxDmaTurn pick s).rxHwptr } := by
  cases hen : s.rxEnabled with
  | false => simp [rxDmaTurn, hen]
  | true =>
    cases hrxd : s.rxd with
    | idle =>
      have h : rxDmaTurn pick s = s := by simp [rxDmaTurn, hrxd]
      rw [h]
    | fetched w f => simp [rxDmaTurn, hen, hrxd]
    | addressed w f d todo =>
      simp only [rxDmaTurn, hen, hrxd, if_true]
      unfold rxWriteByte
      split <;> rfl
    | written w f =>
      simp only [rxDmaTurn, hen, hrxd, if_true]
      rfl

/-- An offered frame changes the RX DMA agent's record only. -/
theorem wireTurn_frame (f : Frame) (s : State) : wireTurn f s = { s with rxd := (wireTurn f s).rxd } := by
  unfold wireTurn
  split
  · split
    · split
      · rfl
      · rfl
    all_goals rfl
  · rfl

theorem cacheWriteBackTurn_frame (a : Word) (keep : Bool) (s : State) :
    cacheWriteBackTurn a keep s =
      { s with mem := (cacheWriteBackTurn a keep s).mem, cache := (cacheWriteBackTurn a keep s).cache } := by
  unfold cacheWriteBackTurn
  split
  · rfl
  · split
    · split <;> rfl
    · rfl

theorem cacheFillTurn_frame (a : Word) (s : State) :
    cacheFillTurn a s = { s with cache := (cacheFillTurn a s).cache } := by
  unfold cacheFillTurn
  split
  · rfl
  · rw [State.withStore, Store.fill_mem]
    rfl

theorem cacheDropTurn_frame (a : Word) (s : State) :
    cacheDropTurn a s = { s with cache := (cacheDropTurn a s).cache } := by
  unfold cacheDropTurn
  split
  · rfl
  · split
    · split <;> rfl
    · rfl

theorem timerTurn_frame (s : State) : timerTurn s = { s with expired := (timerTurn s).expired } := by
  unfold timerTurn
  split <;> rfl

theorem macTurn_of_no_reset (regs : MacRegs) (p q : Word) (s : State) (h : s.macRst = false) : macTurn regs p q s = s := by
  simp [macTurn, h]

/-- Settles O12: a command's frame has it, the software agent's own accesses and the other agents write other fields. -/
theorem stepKeepsConfiguration : Obligations.StepKeepsConfiguration := by
  intro s t h
  cases step_cases h with
  | runs ht ho hc => exact hc.cfg_eq
  | starts ht ho hb hc => exact hc.cfg_eq
  | txDma ht => rw [txDmaTurn_frame]; rfl
  | wire ht => rw [wireTurn_frame]; rfl
  | rxDma ht => rw [rxDmaTurn_frame]; rfl
  | cacheWriteBack ht => rw [cacheWriteBackTurn_frame]; rfl
  | cacheFill ht => rw [cacheFillTurn_frame]; rfl
  | cacheDrop ht => rw [cacheDropTurn_frame]; rfl
  | mac ht => unfold macTurn; split <;> rfl
  | timer ht => rw [timerTurn_frame]; rfl
  | illegal | pause | arg0 | arg1 | load | store => rfl

/-! ## The lifecycle (R255) -/

/-- The lifecycle state changes in DEV_START and in the last phase of DEV_STOP only. -/
theorem CommandStep.life_transitions {i : Instr} {s t : State} (h : CommandStep i s t) (hne : t.life ≠ s.life) :
    (i = .devStart ∧ s.phase = .devS2 ∧ t.life = .starting ∧ t.busy = true) ∨
    (i = .devStart ∧ s.phase = .devS13 ∧ t.life = .running ∧ t.statusCode = Status.ok.code) ∨
    (i = .devStart ∧ later .devStart s.phase = true ∧ t.life = .error ∧ t.busy = false ∧
      t.statusCode ∈ [Status.config.code, Status.resetTimeout.code, Status.transport.code, Status.noLink.code]) ∨
    (i = .devStop ∧ s.phase = .stopX3 ∧ t.life = .stopped ∧ t.statusCode = Status.ok.code) := by
  obtain ⟨o, v, he, hl⟩ := h.done
  have hlife : t.life = v.life := by rw [hl.registers]
  rw [hlife] at hne ⊢
  cases he with
  | startsUp hp => cases hl; exact .inl ⟨rfl, hp, rfl, rfl⟩
  | running hp => cases hl; exact .inr (.inl ⟨rfl, hp, rfl, State.endCommand_statusCode _ _ _ _⟩)
  | fails hp hst =>
    cases hl
    refine .inr (.inr (.inl ⟨rfl, hp, rfl, rfl, ?_⟩))
    rw [State.endCommand_statusCode]
    rcases hst with rfl | rfl | rfl | rfl <;> simp
  | stops hp => cases hl; exact .inr (.inr (.inr ⟨rfl, hp, rfl, State.endCommand_statusCode _ _ _ _⟩))
  | clearsEnables h => unfold State.stopMac at hne; split at hne <;> simp at hne
  | _ => simp [State.linkWrite, State.startReset, State.programMac, State.programRings, State.enableMac,
      State.setMac] at hne

theorem lifeFits_devStart {p : Phase} {l : Life} (h : lifeFits .devStart p l = true) :
    (p = .devS2 ∧ (l = .stopped ∨ l = .error)) ∨ (p ≠ .devS2 ∧ l = .starting) := by
  by_cases hp : p = .devS2 <;> simp_all [lifeFits, legal]

/-- Settles O56: only DEV_START's and DEV_STOP's phases change the lifecycle state, in a running command since a first
phase does not; where each starts from is what soundness says of a running command. -/
theorem lifecycleTransitions : Obligations.LifecycleTransitions := by
  intro s t hs hstep hne
  have hseq : s.seqOk = true := by
    simp only [State.sound, Bool.and_eq_true] at hs
    exact hs.1.1.1.1.1
  cases step_cases hstep with
  | runs ht ho hc =>
    refine ⟨by rw [ht]; rfl, ?_⟩
    obtain ⟨-, -, hfits⟩ := running_of_seqOk hseq ho
    rcases hc.life_transitions hne with ⟨rfl, hp, hl, hb⟩ | ⟨rfl, hp, hl, hst⟩ | ⟨rfl, -, hl, hb, hst⟩ |
      ⟨rfl, hp, hl, hst⟩
    · rcases lifeFits_devStart hfits with ⟨-, hlife⟩ | ⟨hn, -⟩
      · exact .inl ⟨ho, hp, by simpa using hlife, hl, hb⟩
      · exact absurd hp hn
    · rcases lifeFits_devStart hfits with ⟨hn, -⟩ | ⟨-, hlife⟩
      · exact absurd (hn.symm.trans hp) (by simp)
      · exact .inr (.inl ⟨ho, hp, hlife, hl, hst⟩)
    · refine .inr (.inr (.inl ⟨ho, ?_, hl, hb, hst⟩))
      rcases lifeFits_devStart hfits with ⟨-, hlife | hlife⟩ | ⟨-, hlife⟩ <;> simp [hlife]
    · refine .inr (.inr (.inr ⟨ho, hp, ?_, hl, hst⟩))
      simp only [lifeFits, Bool.and_eq_true, bne_iff_ne, ne_eq] at hfits
      exact hfits.2
  | starts ht ho hb hc =>
    rcases hc.life_transitions hne with ⟨-, hp, -⟩ | ⟨-, hp, -⟩ | ⟨-, hp, -⟩ | ⟨-, hp, -⟩
    · cases hp
    · cases hp
    · exact absurd hp Bool.false_ne_true
    · cases hp
  | txDma ht => rw [txDmaTurn_frame] at hne; exact absurd rfl hne
  | wire ht => rw [wireTurn_frame] at hne; exact absurd rfl hne
  | rxDma ht => rw [rxDmaTurn_frame] at hne; exact absurd rfl hne
  | cacheWriteBack ht => rw [cacheWriteBackTurn_frame] at hne; exact absurd rfl hne
  | cacheFill ht => rw [cacheFillTurn_frame] at hne; exact absurd rfl hne
  | cacheDrop ht => rw [cacheDropTurn_frame] at hne; exact absurd rfl hne
  | mac ht => unfold macTurn at hne; split at hne <;> exact absurd rfl hne
  | timer ht => rw [timerTurn_frame] at hne; exact absurd rfl hne
  | illegal | pause | arg0 | arg1 | load | store => exact absurd rfl hne

/-! ## The timer flag (R52, R301) -/

theorem State.stopMac_expired (s : State) : s.stopMac.expired = s.expired := by
  unfold State.stopMac
  split <;> simp

/-- A phase changes the flag where a bounded wait starts, and clears it there. -/
theorem CommandStep.expired_writers {i : Instr} {s t : State} (h : CommandStep i s t) (hne : t.expired ≠ s.expired) :
    t.expired = false ∧ ((i = .txSubmit ∧ s.phase = .txT6) ∨ (i = .devStart ∧ s.phase = .devS3)) := by
  obtain ⟨o, v, he, hl⟩ := h.done
  have hexp : t.expired = v.expired := by rw [hl.registers]
  rw [hexp] at hne ⊢
  cases he with
  | doorbell h => exact ⟨rfl, .inl ⟨rfl, h⟩⟩
  | resets h => exact ⟨rfl, .inr ⟨rfl, h⟩⟩
  | clearsEnables h => exact absurd s.stopMac_expired hne
  | _ => simp [State.linkWrite, State.programMac, State.programRings, State.enableMac, State.setMac] at hne

theorem State.waiting_iff (s : State) : s.waiting = true ↔
    s.busy = true ∧ ((∃ todo, s.phase = .txT7 todo) ∨ (s.phase = .devS4 ∧ s.cfg.resetBounded = true)) := by
  unfold State.waiting
  cases s.phase <;> simp

/-- A step that changes the flag is the timer's inside a wait, or the phase that starts one. -/
theorem step_expired_writers {s t : State} (h : step s = .next t) (hne : t.expired ≠ s.expired) :
    (s.nextTurn = .timer ∧ s.waiting = true ∧ t.expired = true) ∨
    (s.nextTurn.isSoftware = true ∧ t.expired = false ∧
      ((s.op = some .txSubmit ∧ s.phase = .txT6) ∨ (s.op = some .devStart ∧ s.phase = .devS3))) := by
  cases step_cases h with
  | runs ht ho hc =>
    obtain ⟨hexp, hw⟩ := hc.expired_writers hne
    refine .inr ⟨by rw [ht]; rfl, hexp, ?_⟩
    rcases hw with ⟨rfl, hp⟩ | ⟨rfl, hp⟩
    · exact .inl ⟨ho, hp⟩
    · exact .inr ⟨ho, hp⟩
  | starts ht ho hb hc =>
    obtain ⟨-, ⟨-, hp⟩ | ⟨-, hp⟩⟩ := hc.expired_writers hne <;> cases hp
  | timer ht =>
    unfold timerTurn at hne ⊢
    split at hne
    · rename_i hw
      rw [if_pos hw]
      exact .inl ⟨ht, hw, rfl⟩
    · exact absurd rfl hne
  | txDma ht => rw [txDmaTurn_frame] at hne; exact absurd rfl hne
  | wire ht => rw [wireTurn_frame] at hne; exact absurd rfl hne
  | rxDma ht => rw [rxDmaTurn_frame] at hne; exact absurd rfl hne
  | cacheWriteBack ht => rw [cacheWriteBackTurn_frame] at hne; exact absurd rfl hne
  | cacheFill ht => rw [cacheFillTurn_frame] at hne; exact absurd rfl hne
  | cacheDrop ht => rw [cacheDropTurn_frame] at hne; exact absurd rfl hne
  | mac ht => unfold macTurn at hne; split at hne <;> exact absurd rfl hne
  | illegal | pause | arg0 | arg1 | load | store => exact absurd rfl hne

/-- Settles O58: the writers of the flag, by what they write. -/
theorem timerFlag : Obligations.TimerFlag := by
  refine ⟨fun s t h h0 h1 => ?_, fun s t h h1 h0 => ?_, fun s hw => ?_⟩
  · rcases step_expired_writers h (by simp [h0, h1]) with ⟨ht, hw, -⟩ | ⟨-, hexp, -⟩
    · exact ⟨ht, s.waiting_iff.mp hw⟩
    · simp [h1] at hexp
  · rcases step_expired_writers h (by simp [h0, h1]) with ⟨-, -, hexp⟩ | ⟨ht, -, hp⟩
    · simp [h0] at hexp
    · exact ⟨ht, hp⟩
  · rw [timerTurn, if_pos hw]

/-! ## The writers of MACCR (R242, R342) -/

theorem CommandStep.maccr_writers {i : Instr} {s t : State} (h : CommandStep i s t)
    (hne : t.mac.maccr ≠ s.mac.maccr ∨ t.macRst ≠ s.macRst) :
    (i = .linkAdjust ∧ ∃ ls, s.phase = .linkK2 ls) ∨
    (i = .devStart ∧ (s.phase = .devS3 ∨ s.phase = .devS10 ∨ ∃ ls, s.phase = .devS12 ls)) ∨
    (i = .devStop ∧ s.phase = .stopX2) := by
  obtain ⟨o, v, he, hl⟩ := h.done
  have hmac : t.mac = v.mac ∧ t.macRst = v.macRst := by
    rw [hl.registers]
    exact ⟨rfl, rfl⟩
  rw [hmac.1, hmac.2] at hne
  cases he with
  | links hi =>
    rcases hi with ⟨rfl, hp⟩ | ⟨rfl, hp⟩
    · exact .inl ⟨rfl, _, hp⟩
    · exact .inr (.inl ⟨rfl, .inr (.inr ⟨_, hp⟩)⟩)
  | resets h => exact .inr (.inl ⟨rfl, .inl h⟩)
  | enables h => exact .inr (.inl ⟨rfl, .inr (.inl h)⟩)
  | clearsEnables h => exact .inr (.inr ⟨rfl, h⟩)
  | _ => simp [State.programMac, State.programRings, State.setMac, State.regWrite] at hne

/-- Settles O60: a command's phases that write MACCR, and the MAC agent, which acts while a reset is in progress. -/
theorem controlWordWriters : Obligations.ControlWordWriters := by
  intro s t h hne
  cases step_cases h with
  | runs ht ho hc =>
    refine .inr ⟨by rw [ht]; rfl, ?_⟩
    rcases hc.maccr_writers hne with ⟨rfl, hp⟩ | ⟨rfl, hp⟩ | ⟨rfl, hp⟩
    · exact .inl ⟨ho, hp⟩
    · exact .inr (.inl ⟨ho, hp⟩)
    · exact .inr (.inr ⟨ho, hp⟩)
  | starts ht ho hb hc =>
    rcases hc.maccr_writers hne with ⟨-, _, hp⟩ | ⟨-, hp | hp | ⟨_, hp⟩⟩ | ⟨-, hp⟩ <;> cases hp
  | mac ht =>
    refine .inl ⟨by rw [ht]; rfl, ?_⟩
    by_contra hrst
    have hno : s.takeTurn.macRst = false := Bool.eq_false_iff.mpr hrst
    rw [macTurn_of_no_reset _ _ _ _ hno] at hne
    simp [State.takeTurn] at hne
  | timer ht => rw [timerTurn_frame] at hne; simp [State.takeTurn] at hne
  | txDma ht => rw [txDmaTurn_frame] at hne; simp [State.takeTurn] at hne
  | wire ht => rw [wireTurn_frame] at hne; simp [State.takeTurn] at hne
  | rxDma ht => rw [rxDmaTurn_frame] at hne; simp [State.takeTurn] at hne
  | cacheWriteBack ht => rw [cacheWriteBackTurn_frame] at hne; simp [State.takeTurn] at hne
  | cacheFill ht => rw [cacheFillTurn_frame] at hne; simp [State.takeTurn] at hne
  | cacheDrop ht => rw [cacheDropTurn_frame] at hne; simp [State.takeTurn] at hne
  | illegal | pause | arg0 | arg1 | load | store => simp [State.turned, illegalCommand] at hne

/-! ## The MAC agent (R325) -/

theorem macTurn_of_reset (regs : MacRegs) (p q : Word) (s : State) (h : s.macRst = true) :
    macTurn regs p q s = { s with
      macRst := false
      mac := { regs with maccr := regs.maccr &&& 0x7FFFFFF0#32 }
      txKick := false
      txd := .idle
      rxd := .idle
      txHwptr := p
      rxHwptr := q } := by
  have hm : ~~~(Maccr.swRst ||| Maccr.enableM) = 0x7FFFFFF0#32 := by decide
  rw [macTurn, if_pos h, hm]

/-- Settles O57: both cases of the MAC agent's turn; the mask it leaves has no enable bit. -/
theorem macResetCompletes : Obligations.MacResetCompletes := by
  intro s regs p q
  refine ⟨macTurn_of_no_reset regs p q s, macTurn_of_reset regs p q s, ?_, fun h => ?_⟩
  · cases h : s.macRst with
    | false => rw [macTurn_of_no_reset _ _ _ _ h, h]
    | true => rw [macTurn_of_reset _ _ _ _ h]
  · rw [macTurn_of_reset _ _ _ _ h]
    simp [State.txEnabled, State.rxEnabled]

end Sys2Proof.Machine

/-! PROOFS. Every step of every agent keeps the shape of the state (10_state.md R21 to R26, R50 to R56, R259): part by part for
a phase of a command, then for each agent's turn. -/

namespace Sys2Proof.Machine

theorem State.sound_iff (s : State) : s.sound = true ↔ s.seqOk = true ∧ s.phaseOk = true ∧ s.cursorsOk = true ∧
    s.maccrOk = true ∧ s.dmaOk = true ∧ s.storeOk = true := by
  simp only [State.sound, Bool.and_eq_true, and_assoc]

/-! ## Memory and cache stay canonical (R50, R51, R79) -/

/-- The store of `State.storeOk`: canonical, with no line Valid when DMA is coherent. -/
theorem State.storeOk_iff (s : State) :
    s.storeOk = true ↔ s.store.wf s.cfg = true ∧ (s.cfg.coherent = true → s.cache = []) := by
  simp only [State.storeOk, Bool.and_eq_true, Store.wf_iff, State.store_mem, State.store_cache]
  cases s.cfg.coherent <;> simp

theorem Store.afterRead_cache_coherent (c : Config) (a : Word) (x : Store) (h : c.coherent = true) :
    (x.afterRead c a).cache = x.cache := by rw [Store.afterRead_coherent c a x h]

theorem State.storeOk_memReadState (s : State) (a : Word) (h : s.storeOk = true) : (s.memReadState a).storeOk = true := by
  rw [State.storeOk_iff] at h ⊢
  exact ⟨Store.wf_afterRead s.cfg a s.store h.1, fun hc => (Store.afterRead_cache_coherent _ a _ hc).trans (h.2 hc)⟩

theorem State.storeOk_memWrite (s : State) (a v : Word) (h : s.storeOk = true) : (s.memWrite a v).storeOk = true := by
  rw [State.storeOk_iff] at h ⊢
  exact ⟨Store.wf_cpuWrite s.cfg a v s.store h.1, fun hc => (Store.cpuWrite_cache_coherent _ a v _ hc).trans (h.2 hc)⟩

theorem State.storeOk_memWriteAll (s : State) (ws : List (Word × Word)) (h : s.storeOk = true) :
    (s.memWriteAll ws).storeOk = true := by
  rw [State.storeOk_iff] at h ⊢
  exact ⟨Store.wf_cpuWriteAll s.cfg ws s.store h.1,
    fun hc => (Store.cpuWriteAll_cache_coherent _ ws _ hc).trans (h.2 hc)⟩

theorem State.storeOk_flushLine (s : State) (l : Nat) (h : s.storeOk = true) : (s.flushLine l).storeOk = true := by
  rw [State.storeOk_iff] at h ⊢
  exact ⟨Store.wf_flushLine s.cfg l s.store h.1, fun hc => Store.flushLine_cache_empty s.cfg l s.store (h.2 hc)⟩

theorem State.storeOk_invalidateLine (s : State) (l : Nat) (h : s.storeOk = true) :
    (s.invalidateLine l).storeOk = true := by
  rw [State.storeOk_iff] at h ⊢
  refine ⟨Store.wf_invalidateLine s.cfg l s.store h.1, fun hc => ?_⟩
  rw [State.invalidateLine_cache, h.2 hc, Cache.drop_nil]

theorem State.storeOk_markEndAt (s : State) (a : Word) (h : s.storeOk = true) : (s.markEndAt a).storeOk = true :=
  State.storeOk_memWrite _ _ _ (s.storeOk_memReadState a h)

theorem LineOp.storeOk_act (o : LineOp) (s : State) (l : Nat) (h : s.storeOk = true) : (o.act s l).storeOk = true := by
  cases o with
  | flush => exact s.storeOk_flushLine l h
  | invalidate => exact s.storeOk_invalidateLine l h

theorem OneLine.storeOk {o : LineOp} {todo rest : List Nat} {s u : State} (h : OneLine o todo rest s u)
    (hs : s.storeOk = true) : u.storeOk = true := by
  obtain ⟨-, l, -, rfl⟩ := h
  exact o.storeOk_act s l hs

theorem LastLine.storeOk {o : LineOp} {todo : List Nat} {s u : State} (h : LastLine o todo s u)
    (hs : s.storeOk = true) : u.storeOk = true := by
  rcases h with ⟨-, rfl⟩ | ⟨l, -, rfl⟩
  · exact hs
  · exact o.storeOk_act s l hs

theorem RxAtP2.storeOk {s u : State} {n : Nat} {b : Word} {todo : List Nat} (h : RxAtP2 s u n b todo)
    (hs : s.storeOk = true) : u.storeOk = true := by
  rcases h with ⟨-, rfl⟩ | ⟨w, -, -, -, -, rfl⟩
  · exact hs
  · exact s.storeOk_memReadState _ hs

theorem RxAtL2.storeOk {s u : State} {todo : List Nat} (h : RxAtL2 s u todo) (hs : s.storeOk = true) :
    u.storeOk = true := by
  rcases h with ⟨-, rfl⟩ | ⟨-, -, rfl⟩
  · exact hs
  · exact State.storeOk_memWrite _ _ _ (s.storeOk_memReadState _ hs)

theorem ringInitStep_storeOk {r : Ring} {p : RingPhase} {s u : State} {q : Option RingPhase}
    (h : ringInitStep r p s = (u, q)) (hs : s.storeOk = true) : u.storeOk = true := by
  cases p with
  | i2 => cases h; exact s.storeOk_memWriteAll _ hs
  | i3 =>
    cases r with
    | tx => cases h; exact hs
    | rx => cases h; exact s.storeOk_memWriteAll _ hs
  | i4 => cases h; exact s.storeOk_markEndAt _ hs
  | i5 todo =>
    simp only [ringInitStep] at h
    split at h
    · cases h; exact hs
    · cases h; exact s.storeOk_flushLine _ hs
  | i6 =>
    cases h
    cases r <;> exact hs

theorem State.stopMac_frame (s : State) : s.stopMac = { s with mac := s.stopMac.mac, macRst := s.stopMac.macRst } := by
  unfold State.stopMac
  split <;> rfl

theorem CommandStep.keeps_storeOk {i : Instr} {s t : State} (h : CommandStep i s t) (hs : s.storeOk = true) :
    t.storeOk = true := by
  cases h with
  | ringGoesOn h hr | ringEnds h hr | startTxRing h hr | startTxRingEnds h hr | startRxRing h hr
  | startRxRingEnds h hr =>
    have hu := ringInitStep_storeOk hr hs
    exact hu
  | marked h => exact s.storeOk_markEndAt _ hs
  | flushLine h ho | invalidateLine h ho | txT1Line h ho | txT3Line h ho | txT5Line h ho | txT7Line h ho
  | rxP1Line h ho => exact ho.storeOk hs
  | flushEnds h ho | invalidateEnds h ho | txT3Ends h ho | txT5Ends h ho => exact ho.storeOk hs
  | txNoDesc h ho hw | txSlotFree h ho hw | txDone h ho hw | rxNoPacket h ho hw =>
    exact State.storeOk_memReadState _ _ (ho.storeOk hs)
  | txTimeout h ho hw he | txWaits h ho hw he | rxPacket h ho hw he =>
    exact State.storeOk_memReadState _ _ (ho.storeOk hs)
  | txAddress h | txWord0 h => exact s.storeOk_memWrite _ _ hs
  | rxP2Line h ho => exact ho.storeOk (h.storeOk hs)
  | rxP2Ends h ho => exact ho.storeOk (h.storeOk hs)
  | rxL2Line h ho => exact ho.storeOk (h.storeOk hs)
  | rxL2Ends h ho => exact ho.storeOk (h.storeOk hs)
  | stopMac h =>
    rw [State.stopMac_frame]
    exact hs
  | _ =>
    simpa [State.storeOk, State.linkWrite, State.startReset, State.programMac, State.programRings, State.enableMac,
      State.setMac] using hs

/-! ## Cursors and DMA records through a phase -/

theorem State.cursorsOk_iff (s : State) : s.cursorsOk = true ↔
    s.txCur < s.cfg.txCap ∧ s.rxCur < s.cfg.rxCap ∧ (s.rxOut = true → s.rxOutSlot = s.rxCur) := by
  simp only [State.cursorsOk, Bool.and_eq_true, decide_eq_true_eq, Bool.or_eq_true, Bool.not_eq_true', beq_iff_eq,
    and_assoc]
  cases s.rxOut <;> simp

theorem Effect.keeps_cursorsOk {i : Instr} {s v : State} {o : Option Status} (h : Effect i s o v)
    (hs : s.cursorsOk = true) : v.cursorsOk = true := by
  obtain ⟨htx, hrx, hout⟩ := s.cursorsOk_iff.mp hs
  cases h with
  | rewinds r hi =>
    cases r with
    | tx => exact (State.cursorsOk_iff _).mpr ⟨Nat.zero_lt_of_lt htx, hrx, hout⟩
    | rx => exact (State.cursorsOk_iff _).mpr ⟨htx, Nat.zero_lt_of_lt hrx, fun h => absurd h Bool.false_ne_true⟩
  | txAdvances =>
    exact (State.cursorsOk_iff _).mpr ⟨Nat.mod_lt _ (Nat.zero_lt_of_lt htx), hrx, hout⟩
  | rxTakes => exact (State.cursorsOk_iff _).mpr ⟨htx, hrx, fun _ => rfl⟩
  | rxGives =>
    exact (State.cursorsOk_iff _).mpr
      ⟨htx, Nat.mod_lt _ (Nat.zero_lt_of_lt hrx), fun h => absurd h Bool.false_ne_true⟩
  | clearsEnables h =>
    rw [State.stopMac_frame]
    exact hs
  | _ =>
    simpa [State.cursorsOk, State.linkWrite, State.startReset, State.programMac, State.programRings, State.enableMac,
      State.setMac] using hs

theorem CommandStep.keeps_cursorsOk {i : Instr} {s t : State} (h : CommandStep i s t) (hs : s.cursorsOk = true) :
    t.cursorsOk = true := by
  obtain ⟨o, v, he, hl⟩ := h.done
  rw [hl.registers]
  exact he.keeps_cursorsOk hs

/-- What the TX DMA agent may hold (R200). -/
def txRecordOk (c : Config) : TxProgress → Bool
  | .idle => true
  | .fetched w => c.own w
  | .addressed w _ todo buf => c.own w && decide (buf.length = c.len w) && todo.all fun k => decide (k < c.len w)
  | .sent w => c.own w

/-- What the RX DMA agent may hold (R230). -/
def rxRecordOk (c : Config) : RxProgress → Bool
  | .idle => true
  | .fetched w f => !c.own w && decide (f.bytes.length ≤ c.rxBufSize)
  | .addressed w f _ todo =>
    !c.own w && decide (f.bytes.length ≤ c.rxBufSize) && todo.all fun k => decide (k < f.bytes.length)
  | .written w f => !c.own w && decide (f.bytes.length ≤ c.rxBufSize)

theorem State.dmaOk_iff (s : State) :
    s.dmaOk = true ↔ txRecordOk s.cfg s.txd = true ∧ rxRecordOk s.cfg s.rxd = true := by
  have h : s.dmaOk = (txRecordOk s.cfg s.txd && rxRecordOk s.cfg s.rxd) := rfl
  rw [h, Bool.and_eq_true]

theorem CommandStep.keeps_dmaOk {i : Instr} {s t : State} (h : CommandStep i s t) (hs : s.dmaOk = true) :
    t.dmaOk = true := by
  obtain ⟨o, v, he, hl⟩ := h.done
  obtain ⟨hcfg, -, -, -, htxd, hrxd, -⟩ := he.fixed
  rw [State.dmaOk_iff] at hs ⊢
  rw [hl.registers]
  change txRecordOk v.cfg v.txd = true ∧ rxRecordOk v.cfg v.rxd = true
  rw [hcfg, htxd, hrxd]
  exact hs

/-! ## BUSY, the running command, its phase and the lifecycle state -/

/-- Command `i` runs, or no command does. -/
def Free (i : Instr) (s : State) : Prop := s.op = some i ∨ s.op = none

theorem later_first (i : Instr) : later i .first = false := by cases i <;> rfl

/-- Where a phase starts: the command is past its first phase and fits the lifecycle state, or it starts in a state of its
own that is not Starting. -/
theorem Free.cases {i : Instr} {s : State} (h : Free i s) (hs : s.seqOk = true) :
    (later i s.phase = true ∧ lifeFits i s.phase s.life = true) ∨ (s.phase = .first ∧ s.life ≠ .starting) := by
  rcases h with ho | ho
  · exact .inl (running_of_seqOk hs ho).2
  · exact .inr (idle_of_seqOk hs ho).2

/-- How a phase moves on in the sequence of its command: it begins the command where that is legal, goes on inside it,
makes the device Starting, or ends the command. -/
inductive Moves (i : Instr) (s t : State) : Prop
  | begins (h : later i s.phase = false) (hl : legal i s.life = true) (hp : i = .devStart → t.phase = .devS2)
      (hn : later i t.phase = true) (hlife : t.life = s.life)
  | inside (h : later i s.phase = true) (hp : i = .devStart → s.phase ≠ .devS2 ∧ t.phase ≠ .devS2)
      (hn : later i t.phase = true) (hlife : t.life = s.life)
  | startsUp (hi : i = .devStart) (h : s.phase = .devS2) (hp : t.phase = .devS3) (hlife : t.life = .starting)
  | ends (ho : t.op = none) (hlife : t.life ∈ [.running, .stopped, .error] ∨
      t.life = s.life ∧ (i ≠ .devStart ∨ later i s.phase = false))

theorem Moves.ofPhase {i : Instr} {s t : State} {p q : Phase} (h : s.phase = p) (hp : later i p = true)
    (hi : i ≠ .devStart) (hq : t.phase = q) (hn : later i q = true) (hlife : t.life = s.life) : Moves i s t :=
  .inside (h ▸ hp) (fun e => absurd e hi) (hq ▸ hn) hlife

/-- DEV_START inside its sequence. -/
theorem Moves.ofStart {s t : State} {p q : Phase} (h : s.phase = p) (hp : later .devStart p = true) (hp2 : p ≠ .devS2)
    (hq : t.phase = q) (hn : later .devStart q = true) (hq2 : q ≠ .devS2) (hlife : t.life = s.life) :
    Moves .devStart s t :=
  .inside (h ▸ hp) (fun _ => ⟨h ▸ hp2, hq ▸ hq2⟩) (hq ▸ hn) hlife

theorem Moves.ofRing {r : Ring} {p : RingPhase} {s u t : State} {q : Option RingPhase}
    (h : ringInitStep r p s = (u, q)) (ht : t.life = u.life) : t.life = s.life := by
  rcases ringInitStep_frame h with ⟨-, hu⟩ | ⟨-, -, rfl⟩
  · rw [ht, hu]
  · rw [ht, State.rewind_life]

theorem Moves.ofTxT1 {s t : State} {todo : List Nat} {q : Phase} (h : TxAtT1 s todo) (hq : t.phase = q)
    (hn : later .txSubmit q = true) (hlife : t.life = s.life) : Moves .txSubmit s t := by
  rcases h with hp | ⟨hp, hl, -⟩
  · exact .ofPhase hp rfl (by simp) hq hn hlife
  · exact .begins hp (by rw [hl]; rfl) (by simp) (hq ▸ hn) hlife

theorem Moves.ofRxP1 {s t : State} {todo : List Nat} {q : Phase} (h : RxAtP1 s todo) (hq : t.phase = q)
    (hn : later .rxPoll q = true) (hlife : t.life = s.life) : Moves .rxPoll s t := by
  rcases h with hp | ⟨hp, hl, -⟩
  · exact .ofPhase hp rfl (by simp) hq hn hlife
  · exact .begins hp (by rw [hl]; rfl) (by simp) (hq ▸ hn) hlife

theorem Moves.ofRxP2 {s u t : State} {n : Nat} {b : Word} {todo : List Nat} {q : Phase} (h : RxAtP2 s u n b todo)
    (hq : t.phase = q) (hn : later .rxPoll q = true) (hlife : t.life = s.life) : Moves .rxPoll s t := by
  rcases h with ⟨hp, -⟩ | ⟨w, hp, -⟩ <;> exact .ofPhase hp rfl (by simp) hq hn hlife

theorem Moves.ofRxL2 {s u t : State} {todo : List Nat} {q : Phase} (h : RxAtL2 s u todo)
    (hq : t.phase = q) (hn : later .rxRelease q = true) (hlife : t.life = s.life) : Moves .rxRelease s t := by
  rcases h with ⟨hp, -⟩ | ⟨hp, -⟩ <;> exact .ofPhase hp rfl (by simp) hq hn hlife

theorem OneLine.life {o : LineOp} {todo rest : List Nat} {s u : State} (h : OneLine o todo rest s u) :
    u.life = s.life := by
  obtain ⟨m, x, rfl⟩ := h.frame
  rfl

theorem LastLine.life {o : LineOp} {todo : List Nat} {s u : State} (h : LastLine o todo s u) : u.life = s.life := by
  obtain ⟨m, x, rfl⟩ := h.frame
  rfl

theorem RxAtP2.life {s u : State} {n : Nat} {b : Word} {todo : List Nat} (h : RxAtP2 s u n b todo) :
    u.life = s.life := by
  obtain ⟨m, x, rfl⟩ := h.frame
  rfl

theorem RxAtL2.life {s u : State} {todo : List Nat} (h : RxAtL2 s u todo) : u.life = s.life := by
  obtain ⟨m, x, rfl⟩ := h.frame
  rfl

theorem CommandStep.moves {i : Instr} {s t : State} (h : CommandStep i s t) : Moves i s t := by
  cases h with
  | badState h hl => exact .ends rfl (.inr ⟨rfl, .inr h⟩)
  | ringBegin h hl | markBegins h hl | stopBegins h hl | setMacBegins h hl =>
    exact .begins h hl (by simp) rfl rfl
  | startBegins h hl => exact .begins h hl (fun _ => rfl) rfl rfl
  | flushBegins h hw | invalidateBegins h hw => exact .begins h rfl (by simp) rfl rfl
  | rxReleaseBegins h hl ho | linkBegins h hl ha => exact .begins h (by rw [hl]; rfl) (by simp) rfl rfl
  | ringGoesOn h hs => exact .ofPhase h rfl (by simp) rfl rfl (Moves.ofRing hs rfl)
  | ringEnds h hs => exact .ends rfl (.inr ⟨Moves.ofRing hs rfl, .inl (by simp)⟩)
  | advanced | slotGiven | slotBadArg | markBadArg | marked | flushBadArg | invalidateBadArg | txBadArg | txEnds
  | rxPollOutstanding | rxPollEnds | rxReleaseNone | rxReleaseEnds | linkBadArg | linkNoLink | setMacBadArg =>
    exact .ends rfl (.inr ⟨rfl, .inl (by simp)⟩)
  | linkEnds => exact .ends rfl (.inr ⟨by simp [State.linkWrite], .inl (by simp)⟩)
  | setMacEnds => exact .ends rfl (.inr ⟨by simp [State.setMac], .inl (by simp)⟩)
  | flushEnds h ho | invalidateEnds h ho => exact .ends rfl (.inr ⟨ho.life, .inl (by simp)⟩)
  | txNoDesc h ho hw | rxNoPacket h ho hw | txTimeout h ho hw =>
    exact .ends rfl (.inr ⟨ho.life, .inl (by simp)⟩)
  | flushLine h ho | invalidateLine h ho | txT3Line h ho | txT3Ends h ho | txT5Line h ho | txT5Ends h ho
  | txT7Line h ho => exact .ofPhase h rfl (by simp) rfl rfl ho.life
  | txDone h ho hw | txWaits h ho hw => exact .ofPhase h rfl (by simp) rfl rfl ho.life
  | txT1Line h ho => exact .ofTxT1 h rfl rfl ho.life
  | txSlotFree h ho hw => exact .ofTxT1 h rfl rfl ho.life
  | txAddress h | txWord0 h | txDoorbell h => exact .ofPhase h rfl (by simp) rfl rfl rfl
  | rxP1Line h ho => exact .ofRxP1 h rfl rfl ho.life
  | rxPacket h ho hw => exact .ofRxP1 h rfl rfl ho.life
  | rxP2Line h ho => exact .ofRxP2 h rfl rfl (ho.life.trans h.life)
  | rxP2Ends h ho => exact .ofRxP2 h rfl rfl (ho.life.trans h.life)
  | rxL2Line h ho => exact .ofRxL2 h rfl rfl (ho.life.trans h.life)
  | rxL2Ends h ho => exact .ofRxL2 h rfl rfl (ho.life.trans h.life)
  | startConfigOk h => exact .startsUp rfl h rfl rfl
  | startConfigBad | startResetTimeout | startTransport | startNoLink => exact .ends rfl (.inl (by simp))
  | startEnds | stopEnds => exact .ends rfl (.inl (by simp))
  | startReset h => exact .ofStart h rfl (by simp) rfl rfl (by simp) (by simp [State.startReset])
  | startResetDone h | startResetWaits h | startLink h => exact .ofStart h rfl (by simp) rfl rfl (by simp) rfl
  | startMac h => exact .ofStart h rfl (by simp) rfl rfl (by simp) (by simp [State.programMac])
  | startTxRing h hs | startRxRing h hs => exact .ofStart h rfl (by simp) rfl rfl (by simp) (Moves.ofRing hs rfl)
  | startTxRingEnds h hs | startRxRingEnds h hs =>
    exact .ofStart h rfl (by simp) rfl rfl (by simp) (Moves.ofRing hs rfl)
  | startIer h => exact .ofStart h rfl (by simp) rfl rfl (by simp) (by simp)
  | startRegisters h => exact .ofStart h rfl (by simp) rfl rfl (by simp) (by simp [State.programRings])
  | startEnables h => exact .ofStart h rfl (by simp) rfl rfl (by simp) (by simp [State.enableMac])
  | startLinkApplied h => exact .ofStart h rfl (by simp) rfl rfl (by simp) (by simp [State.linkWrite])
  | stopMac h => exact .ofPhase h rfl (by simp) rfl rfl (by rw [State.stopMac_frame]; rfl)

theorem lifeFits_of_ne_devStart {i : Instr} (p : Phase) (l : Life) (hi : i ≠ .devStart) :
    lifeFits i p l = (legal i l && l != .starting) := by
  cases i <;> first | rfl | exact absurd rfl hi

theorem legal_devStart_ne_starting {l : Life} (h : legal .devStart l = true) : l ≠ .starting := by
  rintro rfl
  cases h

theorem CommandStep.keeps_seqOk {i : Instr} {s t : State} (h : CommandStep i s t) (hf : Free i s)
    (hs : s.seqOk = true) : t.seqOk = true := by
  have hgo (hn : later i t.phase = true) (hl : lifeFits i t.phase t.life = true) : t.seqOk = true := by
    obtain ⟨o, v, -, hland⟩ := h.done
    cases hland with
    | goesOn m x p =>
      simp only [State.seqOk, State.atPhase_op, State.atPhase_busy, hn, hl]
      rfl
    | ends m x st value r1 hst h0 => exact absurd hn (by simp [later_first])
  cases h.moves with
  | begins hp hl hp2 hn hlife =>
    have hne : s.life ≠ .starting := by
      rcases hf.cases hs with ⟨hlater, -⟩ | ⟨-, hne⟩
      · simp [hp] at hlater
      · exact hne
    refine hgo hn ?_
    by_cases hi : i = .devStart
    · subst hi
      rw [hp2 rfl, hlife]
      exact hl
    · rw [lifeFits_of_ne_devStart _ _ hi, hlife, hl]
      simpa using hne
  | inside hp hp2 hn hlife =>
    refine hgo hn ?_
    rcases hf.cases hs with ⟨-, hfits⟩ | ⟨hfirst, -⟩
    · by_cases hi : i = .devStart
      · subst hi
        obtain ⟨h1, h2⟩ := hp2 rfl
        simp only [lifeFits, h1, h2, if_false] at hfits ⊢
        rw [hlife]
        exact hfits
      · rw [lifeFits_of_ne_devStart _ _ hi] at hfits ⊢
        rw [hlife]
        exact hfits
    · rw [hfirst, later_first] at hp
      cases hp
  | startsUp hi hp hp3 hlife =>
    subst hi
    exact hgo (by rw [hp3]; rfl) (by rw [hp3, hlife]; rfl)
  | ends ho hlife =>
    have hne : t.life ≠ .starting := by
      rcases hlife with hl | ⟨hl, hor⟩
      · rintro e
        simp [e] at hl
      · rw [hl]
        rcases hf.cases hs with ⟨hlater, hfits⟩ | ⟨-, hne⟩
        · rcases hor with hi | hp
          · rw [lifeFits_of_ne_devStart _ _ hi] at hfits
            simp only [Bool.and_eq_true, bne_iff_ne] at hfits
            exact hfits.2
          · simp [hp] at hlater
        · exact hne
    obtain ⟨o, v, -, hland⟩ := h.done
    rcases hland.ended with ⟨-, hb, hp⟩ | ⟨ho', -⟩
    · simpa [State.seqOk, ho, hb, hp] using hne
    · simp [ho] at ho'

/-! ## What a phase carries over (R182, R211, R212) -/

theorem State.submitOk_iff (s : State) :
    s.submitOk = true ↔ s.txLen ≤ s.cfg.lenMax ∧ s.arg0.toNat + s.txLen ≤ 2 ^ 32 := by
  simp [State.submitOk, wraps]

theorem TxAtT1.submitOk {s : State} {todo : List Nat} (h : TxAtT1 s todo) (hs : s.phaseOk = true) :
    s.submitOk = true := by
  rcases h with hp | ⟨-, -, hlen, hwrap, -⟩
  · simpa only [State.phaseOk, hp] using hs
  · exact s.submitOk_iff.mpr ⟨hlen, hwrap⟩

theorem RxAtP1.rxOut {s : State} {todo : List Nat} (h : RxAtP1 s todo) (hs : s.phaseOk = true) : s.rxOut = false := by
  rcases h with hp | ⟨-, -, hout, -⟩
  · simpa only [State.phaseOk, hp, Bool.not_eq_true'] using hs
  · exact hout

theorem RxAtP2.rxOut {s u : State} {n : Nat} {b : Word} {todo : List Nat} (h : RxAtP2 s u n b todo)
    (hs : s.phaseOk = true) : s.rxOut = false := by
  rcases h with ⟨hp, -⟩ | ⟨w, hp, -⟩
  · simpa only [State.phaseOk, hp, Bool.not_eq_true'] using hs
  · simp only [State.phaseOk, hp, Bool.and_eq_true, Bool.not_eq_true'] at hs
    exact hs.1.1

theorem RxAtL2.rxOut {s u : State} {todo : List Nat} (h : RxAtL2 s u todo) (hs : s.phaseOk = true) :
    s.rxOut = true := by
  rcases h with ⟨hp, -⟩ | ⟨hp, -⟩ <;> simpa only [State.phaseOk, hp] using hs

theorem CommandStep.keeps_phaseOk {i : Instr} {s t : State} (h : CommandStep i s t) (hs : s.phaseOk = true) :
    t.phaseOk = true := by
  cases h with
  | badState | slotBadArg | markBadArg | flushBadArg | invalidateBadArg | txBadArg | rxPollOutstanding | rxReleaseNone
  | linkBadArg | linkNoLink | setMacBadArg | advanced | slotGiven | marked | ringEnds | flushEnds | invalidateEnds
  | txNoDesc | txTimeout | txEnds | rxNoPacket | rxPollEnds | rxReleaseEnds | linkEnds | startConfigBad
  | startResetTimeout | startTransport | startNoLink | startEnds | stopEnds | setMacEnds => rfl
  | ringBegin | ringGoesOn | startBegins | startConfigOk | startReset | startResetDone | startResetWaits | startMac
  | startTxRing | startTxRingEnds | startRxRing | startRxRingEnds | startIer | startRegisters | startEnables | startLink
  | startLinkApplied | stopBegins | stopMac => rfl
  | markBegins h hl hk => exact beq_iff_eq.mpr hk
  | flushBegins h hw | invalidateBegins h hw => simp [State.phaseOk, hw]
  | linkBegins h hl ha => exact beq_iff_eq.mpr ha
  | setMacBegins h hl ha => exact beq_iff_eq.mpr ha
  | flushLine h ho | invalidateLine h ho | txT5Line h ho | txT5Ends h ho | txT7Line h ho | txT3Line h ho
  | txT3Ends h ho =>
    obtain ⟨m, x, rfl⟩ := ho.frame
    simp only [State.phaseOk, h] at hs
    exact hs
  | txDone h ho hw | txWaits h ho hw =>
    obtain ⟨m, x, rfl⟩ := ho.frame
    simp only [State.phaseOk, h] at hs
    exact hs
  | txAddress h | txDoorbell h =>
    simp only [State.phaseOk, h] at hs
    exact hs
  | txWord0 h =>
    simp only [State.phaseOk, h, Bool.and_eq_true] at hs
    exact hs.1
  | txT1Line h ho =>
    have hsub := h.submitOk hs
    obtain ⟨m, x, rfl⟩ := ho.frame
    exact hsub
  | txSlotFree h ho hw =>
    have hsub := h.submitOk hs
    obtain ⟨m, x, rfl⟩ := ho.frame
    simp only [State.phaseOk, State.atPhase_phase, Bool.and_eq_true, Bool.not_eq_true']
    exact ⟨hsub, hw⟩
  | rxP1Line h ho =>
    have hout := h.rxOut hs
    obtain ⟨m, x, rfl⟩ := ho.frame
    simpa [State.phaseOk] using hout
  | rxPacket h ho hw hb =>
    have hout := h.rxOut hs
    obtain ⟨m, x, rfl⟩ := ho.frame
    simp only [State.phaseOk, State.atPhase_phase, Bool.and_eq_true, Bool.not_eq_true']
    exact ⟨⟨hout, hw⟩, hb⟩
  | rxP2Line h ho | rxP2Ends h ho =>
    have hout := h.rxOut hs
    obtain ⟨m, x, rfl⟩ := h.frame
    obtain ⟨m', x', rfl⟩ := ho.frame
    simpa [State.phaseOk] using hout
  | rxReleaseBegins h hl ho => exact ho
  | rxL2Line h ho | rxL2Ends h ho =>
    have hout := h.rxOut hs
    obtain ⟨m, x, rfl⟩ := h.frame
    obtain ⟨m', x', rfl⟩ := ho.frame
    exact hout

/-! ## MACCR (R54, R259) -/

/-- The phases of DEV_START from the end of the reset wait to the enable phase. -/
def afterReset : Phase → Bool
  | .devS5 => true
  | .devS6 _ => true
  | .devS7 _ => true
  | .devS8 => true
  | .devS9 => true
  | .devS10 => true
  | _ => false

theorem State.maccrOk_iff (s : State) : s.maccrOk = true ↔ s.mac.maccr.getLsbD 31 = false ∧
    (s.phase = .devS4 → s.macRst = true ∨ s.enablesOff = true) ∧
    (afterReset s.phase = true → s.macRst = false ∧ s.enablesOff = true) := by
  unfold State.maccrOk afterReset
  cases s.phase <;> simp

theorem Effect.keeps_maccr_bit31 {i : Instr} {s v : State} {o : Option Status} (h : Effect i s o v)
    (hs : s.mac.maccr.getLsbD 31 = false) : v.mac.maccr.getLsbD 31 = false := by
  cases h with
  | links hi => exact s.regWrite_maccr_bit _
  | resets h => exact s.regWrite_maccr_bit _
  | enables h => exact s.regWrite_maccr_bit _
  | clearsEnables h =>
    unfold State.stopMac
    split <;> exact s.regWrite_maccr_bit _
  | rewinds r hi => simpa using hs
  | _ => simpa [State.programMac, State.programRings, State.setMac, State.regWrite] using hs

/-- The enables and the reset flag through the phases from the reset wait on. -/
theorem CommandStep.keeps_enables_off {i : Instr} {s t : State} (h : CommandStep i s t) (hs : s.maccrOk = true) :
    (t.phase = .devS4 → t.macRst = true ∨ t.enablesOff = true) ∧
    (afterReset t.phase = true → t.macRst = false ∧ t.enablesOff = true) := by
  obtain ⟨hbit, hwait, hafter⟩ := s.maccrOk_iff.mp hs
  have hring {r : Ring} {p : RingPhase} {q : Option RingPhase} {u : State} (hr : ringInitStep r p s = (u, q)) :
      u.macRst = s.macRst ∧ u.enablesOff = s.enablesOff := by
    rcases ringInitStep_frame hr with ⟨-, hu⟩ | ⟨-, -, rfl⟩
    · rw [hu]
      exact ⟨rfl, rfl⟩
    · exact ⟨by simp, by simp [State.enablesOff]⟩
  cases h with
  | startReset h =>
    refine ⟨fun _ => .inl ?_, fun h => absurd h Bool.false_ne_true⟩
    simp [State.startReset, Maccr.swRst]
  | startResetWaits h hb he => exact ⟨fun _ => hwait h, fun h => absurd h Bool.false_ne_true⟩
  | startResetDone h hb =>
    rw [s.regRead_maccr_getLsbD_31 hbit] at hb
    exact ⟨fun h => (by cases h), fun _ => ⟨hb, (hwait h).resolve_left (by simp [hb])⟩⟩
  | startMac h =>
    refine ⟨fun h => (by cases h), fun _ => ?_⟩
    have := hafter (by rw [h]; rfl)
    simpa [State.programMac, State.enablesOff, State.regWrite] using this
  | startIer h =>
    refine ⟨fun h => (by cases h), fun _ => ?_⟩
    have := hafter (by rw [h]; rfl)
    simpa [State.enablesOff, State.regWrite] using this
  | startRegisters h =>
    refine ⟨fun h => (by cases h), fun _ => ?_⟩
    have := hafter (by rw [h]; rfl)
    simpa [State.programRings, State.enablesOff, State.regWrite] using this
  | startTxRing h hr | startTxRingEnds h hr | startRxRing h hr | startRxRingEnds h hr =>
    refine ⟨fun h => (by cases h), fun _ => ?_⟩
    obtain ⟨h1, h2⟩ := hring hr
    have := hafter (by rw [h]; rfl)
    rw [← h1, ← h2] at this
    exact this
  | _ => exact ⟨fun h => (by cases h), fun h => absurd h Bool.false_ne_true⟩

theorem CommandStep.keeps_maccrOk {i : Instr} {s t : State} (h : CommandStep i s t) (hs : s.maccrOk = true) :
    t.maccrOk = true := by
  obtain ⟨hbit, -⟩ := s.maccrOk_iff.mp hs
  obtain ⟨o, v, he, hl⟩ := h.done
  have hmac : t.mac = v.mac := by rw [hl.registers]
  exact t.maccrOk_iff.mpr ⟨by rw [hmac]; exact he.keeps_maccr_bit31 hbit, h.keeps_enables_off hs⟩

/-- Every phase of a command keeps the shape. -/
theorem CommandStep.keeps_sound {i : Instr} {s t : State} (h : CommandStep i s t) (hf : Free i s)
    (hs : s.sound = true) : t.sound = true := by
  obtain ⟨hseq, hph, hcur, hmac, hdma, hst⟩ := s.sound_iff.mp hs
  exact t.sound_iff.mpr ⟨h.keeps_seqOk hf hseq, h.keeps_phaseOk hph, h.keeps_cursorsOk hcur, h.keeps_maccrOk hmac,
    h.keeps_dmaOk hdma, h.keeps_storeOk hst⟩

/-! ## The agents -/

theorem txReadByte_recordOk (pick : Nat) {w b : Word} {todo : List Nat} {buf : List Byte} {s : State}
    (h : txRecordOk s.cfg (.addressed w b todo buf) = true) :
    txRecordOk s.cfg (txReadByte pick w b todo buf s).txd = true := by
  simp only [txRecordOk, Bool.and_eq_true, decide_eq_true_eq, List.all_eq_true] at h
  obtain ⟨⟨hown, hlen⟩, htodo⟩ := h
  unfold txReadByte
  split
  · exact hown
  · next k rest hk =>
    split
    · exact hown
    · simp only [txRecordOk, Bool.and_eq_true, decide_eq_true_eq, List.all_eq_true, List.length_set]
      exact ⟨⟨hown, hlen⟩, fun j hj => htodo j ((takePick_perm hk).mem_iff.mp (List.mem_cons_of_mem k hj))⟩

theorem txDmaTurn_recordOk (pick : Nat) (x : Word) (reserved : List (Nat × Word)) {s : State}
    (h : txRecordOk s.cfg s.txd = true) : txRecordOk s.cfg (txDmaTurn pick x reserved s).txd = true := by
  unfold txDmaTurn
  split
  · split
    · split
      · split
        · assumption
        · exact h
      · exact h
    · next w hw =>
      rw [hw] at h
      simp only [txRecordOk, Bool.and_eq_true, decide_eq_true_eq, List.all_eq_true, List.length_replicate,
        List.mem_range]
      exact ⟨⟨h, trivial⟩, fun _ hk => hk⟩
    · next w b todo buf hw =>
      rw [hw] at h
      exact txReadByte_recordOk pick h
    · rfl
  · exact h

theorem rxWriteByte_recordOk (pick : Nat) {w d : Word} {f : Frame} {todo : List Nat} {s : State}
    (h : rxRecordOk s.cfg (.addressed w f d todo) = true) :
    rxRecordOk s.cfg (rxWriteByte pick w f d todo s).rxd = true := by
  simp only [rxRecordOk, Bool.and_eq_true, Bool.not_eq_true', decide_eq_true_eq, List.all_eq_true] at h
  obtain ⟨⟨hown, hlen⟩, htodo⟩ := h
  unfold rxWriteByte
  split
  · simp [rxRecordOk, hown, hlen]
  · next k rest hk =>
    dsimp only
    split
    · simp [rxRecordOk, hown, hlen]
    · simp only [rxRecordOk, Bool.and_eq_true, Bool.not_eq_true', decide_eq_true_eq, List.all_eq_true]
      exact ⟨⟨hown, hlen⟩, fun j hj => htodo j ((takePick_perm hk).mem_iff.mp (List.mem_cons_of_mem k hj))⟩

theorem rxDmaTurn_recordOk (pick : Nat) {s : State} (h : rxRecordOk s.cfg s.rxd = true) :
    rxRecordOk s.cfg (rxDmaTurn pick s).rxd = true := by
  unfold rxDmaTurn
  split
  · split
    · exact h
    · next w f hw =>
      rw [hw] at h
      simp only [rxRecordOk, Bool.and_eq_true, List.all_eq_true, List.mem_range, decide_eq_true_eq] at h ⊢
      exact ⟨h, fun _ hk => hk⟩
    · next w f d todo hw =>
      rw [hw] at h
      exact rxWriteByte_recordOk pick h
    · rfl
  · exact h

theorem wireTurn_recordOk (f : Frame) {s : State} (h : rxRecordOk s.cfg s.rxd = true) :
    rxRecordOk s.cfg (wireTurn f s).rxd = true := by
  unfold wireTurn
  split
  · next hen =>
    simp only [Bool.and_eq_true, decide_eq_true_eq] at hen
    split
    · split
      · exact h
      · next hown => simp [rxRecordOk, hown, hen.2]
    all_goals exact h
  · exact h

theorem txDmaTurn_wf (pick : Nat) (x : Word) (reserved : List (Nat × Word)) {s : State} (h : s.mem.wf = true) :
    (txDmaTurn pick x reserved s).mem.wf = true := by
  unfold txDmaTurn
  split
  · split
    · split
      · split <;> exact h
      · exact h
    · exact h
    · rw [txReadByte_frame]
      exact h
    · exact State.wf_dmaWrite _ _ _ (s.wf_dmaWriteAll _ h)
  · exact h

theorem rxDmaTurn_wf (pick : Nat) {s : State} (h : s.mem.wf = true) : (rxDmaTurn pick s).mem.wf = true := by
  unfold rxDmaTurn
  split
  · split
    · exact h
    · exact h
    · unfold rxWriteByte
      split
      · exact h
      · exact Memory.wf_write_word _ _ _ h
    · exact s.wf_dmaWrite _ _ h
  · exact h

theorem State.storeOk_congr_mem {s t : State} (hs : s.storeOk = true) (hm : t.mem.wf = true) (hc : t.cache = s.cache)
    (hcfg : t.cfg = s.cfg) : t.storeOk = true := by
  simp only [State.storeOk, Bool.and_eq_true] at hs ⊢
  rw [hc, hcfg]
  exact ⟨⟨hm, hs.1.2⟩, hs.2⟩

theorem State.mem_wf_of_storeOk {s : State} (hs : s.storeOk = true) : s.mem.wf = true :=
  ((Store.wf_iff _ _).mp (s.storeOk_iff.mp hs).1).1

theorem State.cache_wf_of_storeOk {s : State} (hs : s.storeOk = true) : s.cache.wf s.cfg = true :=
  ((Store.wf_iff _ _).mp (s.storeOk_iff.mp hs).1).2

theorem lineAt_lt (c : Config) (a : Word) : lineAt c a < 2 ^ 32 := c.lineOf_lt a

theorem lineAt_mod (c : Config) (a : Word) : lineAt c a % c.line = 0 := c.lineOf_mod _

theorem cacheWriteBackTurn_storeOk (a : Word) (keep : Bool) {s : State} (h : s.storeOk = true) :
    (cacheWriteBackTurn a keep s).storeOk = true := by
  unfold cacheWriteBackTurn
  split
  · exact h
  · next hcoh =>
    split
    · next line hline =>
      split
      · have hlen := Cache.length_of_wf _ _ _ _ (State.cache_wf_of_storeOk h) hline
        refine (State.storeOk_iff _).mpr ⟨(Store.wf_iff _ _).mpr ⟨?_, ?_⟩, fun hc => absurd hc hcoh⟩
        · exact Memory.wf_writeBytes _ _ _ (State.mem_wf_of_storeOk h)
        · cases keep with
          | true =>
            exact Cache.wf_put _ _ _ _ (lineAt_lt _ a) (lineAt_mod _ a) hlen (State.cache_wf_of_storeOk h)
          | false => exact Cache.wf_drop _ _ _ (State.cache_wf_of_storeOk h)
      · exact h
    · exact h

theorem cacheFillTurn_storeOk (a : Word) {s : State} (h : s.storeOk = true) : (cacheFillTurn a s).storeOk = true := by
  unfold cacheFillTurn
  split
  · exact h
  · next hcoh =>
    exact (State.storeOk_iff _).mpr
      ⟨Store.wf_fill s.cfg _ s.store (lineAt_lt _ a) (lineAt_mod _ a) (s.storeOk_iff.mp h).1, fun hc => absurd hc hcoh⟩

theorem cacheDropTurn_storeOk (a : Word) {s : State} (h : s.storeOk = true) : (cacheDropTurn a s).storeOk = true := by
  unfold cacheDropTurn
  split
  · exact h
  · next hcoh =>
    split
    · split
      · exact h
      · exact (State.storeOk_iff _).mpr ⟨(Store.wf_iff _ _).mpr ⟨State.mem_wf_of_storeOk h,
          Cache.wf_drop _ _ _ (State.cache_wf_of_storeOk h)⟩, fun hc => absurd hc hcoh⟩
    · exact h

theorem macTurn_sound (regs : MacRegs) (p q : Word) {s : State} (h : s.sound = true) :
    (macTurn regs p q s).sound = true := by
  cases hr : s.macRst with
  | false => rwa [macTurn_of_no_reset _ _ _ _ hr]
  | true =>
    obtain ⟨hseq, hph, hcur, -, -, hst⟩ := s.sound_iff.mp h
    rw [macTurn_of_reset _ _ _ _ hr]
    refine (State.sound_iff _).mpr ⟨hseq, hph, hcur, ?_, rfl, hst⟩
    have hoff : regs.maccr &&& 0x7FFFFFF0#32 &&& Maccr.enableM = 0#32 := by
      rw [BitVec.and_assoc, show (0x7FFFFFF0#32 &&& Maccr.enableM : Word) = 0#32 by decide, BitVec.and_zero]
    refine (State.maccrOk_iff _).mpr ⟨?_, fun _ => .inr (beq_iff_eq.mpr hoff), fun _ => ⟨rfl, beq_iff_eq.mpr hoff⟩⟩
    have hm : (0x7FFFFFF0#32).getLsbD 31 = false := by decide
    rw [BitVec.getLsbD_and, hm, Bool.and_false]

/-- Soundness does not see the model's own inputs, the operands of an idle device, nor CMD. -/
theorem sound_of_begun {s : State} (d : Draw) (rs : List Request) (w : Word) (ho : s.op = none) (h : s.sound = true) :
    ((s.turned d rs).begun w).sound = true := by
  obtain ⟨hseq, -⟩ := s.sound_iff.mp h
  obtain ⟨-, hp, -⟩ := idle_of_seqOk hseq ho
  rw [State.begun, ← hp]
  exact h

/-- An idle device has no operands that matter. -/
theorem sound_of_idle {s t : State} (hs : s.sound = true) (ho : s.op = none)
    (ht : t = { s with agenda := t.agenda, requests := t.requests, ticks := t.ticks, draw := t.draw, cmd := t.cmd,
                       arg0 := t.arg0, arg1 := t.arg1, res0 := t.res0, res1 := t.res1, mem := t.mem, cache := t.cache })
    (hst : t.storeOk = true) : t.sound = true := by
  obtain ⟨hseq, -, hcur, hmac, hdma, -⟩ := s.sound_iff.mp hs
  obtain ⟨-, hp, -⟩ := idle_of_seqOk hseq ho
  refine t.sound_iff.mpr ⟨?_, ?_, ?_, ?_, ?_, hst⟩
  · rw [ht]; exact hseq
  · have hpt : t.phase = .first := by rw [ht]; exact hp
    simp [State.phaseOk, hpt]
  · rw [ht]; exact hcur
  · rw [ht]; exact hmac
  · rw [ht]; exact hdma

/-- Settles O11: part by part for a phase of a command, and for each other turn by the fields that it writes. -/
theorem stepKeepsSound : Obligations.StepKeepsSound := by
  intro s t hs h
  obtain ⟨hseq, hph, hcur, hmac, hdma, hst⟩ := s.sound_iff.mp hs
  have hrec := s.dmaOk_iff.mp hdma
  cases step_cases h with
  | runs ht ho hc => exact hc.keeps_sound (.inl ho) hs
  | starts ht ho hb hc => exact hc.keeps_sound (.inr ho) (sound_of_begun _ _ _ ho hs)
  | illegal ht ho hb =>
    obtain ⟨hb', hp, -⟩ := idle_of_seqOk hseq ho
    refine sound_of_idle hs ho ?_ hst
    rw [illegalCommand, State.endCommand, State.turned]
    simp only [← hp, ← hb', ← ho]
  | pause ht ho => exact hs
  | arg0 ht ho hb => exact sound_of_idle hs ho rfl hst
  | arg1 ht ho hb => exact sound_of_idle hs ho rfl hst
  | load ht ho => exact sound_of_idle hs ho rfl (s.storeOk_memReadState _ hst)
  | store ht ho hq => exact sound_of_idle hs ho rfl (s.storeOk_memWrite _ _ hst)
  | txDma ht =>
    have hr := txDmaTurn_recordOk (s := s.takeTurn) ‹_› ‹_› ‹_› hrec.1
    have hw := txDmaTurn_wf (s := s.takeTurn) ‹_› ‹_› ‹_› (State.mem_wf_of_storeOk hst)
    rw [txDmaTurn_frame]
    exact (State.sound_iff _).mpr ⟨hseq, hph, hcur, hmac, (State.dmaOk_iff _).mpr ⟨hr, hrec.2⟩,
      State.storeOk_congr_mem hst hw rfl rfl⟩
  | wire ht =>
    have hr := wireTurn_recordOk (s := s.takeTurn) ‹_› hrec.2
    rw [wireTurn_frame]
    exact (State.sound_iff _).mpr ⟨hseq, hph, hcur, hmac, (State.dmaOk_iff _).mpr ⟨hrec.1, hr⟩, hst⟩
  | rxDma ht =>
    have hr := rxDmaTurn_recordOk (s := s.takeTurn) ‹_› hrec.2
    have hw := rxDmaTurn_wf (s := s.takeTurn) ‹_› (State.mem_wf_of_storeOk hst)
    rw [rxDmaTurn_frame]
    exact (State.sound_iff _).mpr ⟨hseq, hph, hcur, hmac, (State.dmaOk_iff _).mpr ⟨hrec.1, hr⟩,
      State.storeOk_congr_mem hst hw rfl rfl⟩
  | cacheWriteBack ht =>
    have hw := cacheWriteBackTurn_storeOk (s := s.takeTurn) ‹_› ‹_› hst
    rw [cacheWriteBackTurn_frame] at hw ⊢
    exact (State.sound_iff _).mpr ⟨hseq, hph, hcur, hmac, hdma, hw⟩
  | cacheFill ht =>
    have hw := cacheFillTurn_storeOk (s := s.takeTurn) ‹_› hst
    rw [cacheFillTurn_frame] at hw ⊢
    exact (State.sound_iff _).mpr ⟨hseq, hph, hcur, hmac, hdma, hw⟩
  | cacheDrop ht =>
    have hw := cacheDropTurn_storeOk (s := s.takeTurn) ‹_› hst
    rw [cacheDropTurn_frame] at hw ⊢
    exact (State.sound_iff _).mpr ⟨hseq, hph, hcur, hmac, hdma, hw⟩
  | mac ht => exact macTurn_sound _ _ _ (s := s.takeTurn) hs
  | timer ht =>
    rw [timerTurn_frame]
    exact hs

/-! ## When the DMA agents take no step (R200, R230, R259) -/

theorem txDmaTurn_of_disabled (pick : Nat) (x : Word) (reserved : List (Nat × Word)) (s : State)
    (h : s.txEnabled = false) : txDmaTurn pick x reserved s = s := by simp [txDmaTurn, h]

theorem rxDmaTurn_of_disabled (pick : Nat) (s : State) (h : s.rxEnabled = false) : rxDmaTurn pick s = s := by
  simp [rxDmaTurn, h]

theorem wireTurn_of_disabled (f : Frame) (s : State) (h : s.rxEnabled = false) : wireTurn f s = s := by
  simp [wireTurn, h]

/-- With the enable bits 0 neither DMA agent is enabled. -/
theorem disabled_of_enablesOff {s : State} (h : s.enablesOff = true) : s.txEnabled = false ∧ s.rxEnabled = false := by
  have hand : s.mac.maccr &&& Maccr.enableM = 0#32 := beq_iff_eq.mp h
  have hbit (j : Nat) (hj : Maccr.enableM.getLsbD j = true) : s.mac.maccr.getLsbD j = false := by
    have hz := congrArg (BitVec.getLsbD · j) hand
    simpa [BitVec.getLsbD_and, hj] using hz
  have h0 := hbit 0 (by decide)
  have h1 := hbit 1 (by decide)
  simp only [State.txEnabled, State.rxEnabled, h0, h1, Bool.and_false, Bool.false_and, and_self]

/-- Settles O43: an agent that is not enabled or has nothing to do, and the span of DEV_START in which soundness says that
neither is enabled. -/
theorem dmaAgentsQuiet : Obligations.DmaAgentsQuiet := by
  refine ⟨fun s pick x reserved h => ?_, fun s f h => ?_, fun s pick h => ?_, fun s hs hp => ?_⟩
  · rcases h with h | ⟨hidle, hkick⟩
    · exact txDmaTurn_of_disabled _ _ _ _ h
    · simp [txDmaTurn, hidle, hkick]
  · rcases h with h | h | h
    · exact wireTurn_of_disabled f s h
    · unfold wireTurn
      split
      · split
        · next hidle => exact absurd hidle h
        all_goals rfl
      · rfl
    · unfold wireTurn
      split
      · split
        · rfl
        all_goals rfl
      · rfl
  · rcases h with h | h
    · exact rxDmaTurn_of_disabled pick s h
    · simp [rxDmaTurn, h]
  · obtain ⟨-, -, -, hmac, -⟩ := s.sound_iff.mp hs
    have hafter : afterReset s.phase = true := by
      rcases hp with hp | ⟨_, hp⟩ | ⟨_, hp⟩ | hp | hp | hp <;> rw [hp] <;> rfl
    obtain ⟨htx, hrx⟩ := disabled_of_enablesOff ((s.maccrOk_iff.mp hmac).2.2 hafter).2
    exact ⟨fun _ _ _ => txDmaTurn_of_disabled _ _ _ _ htx, fun _ => wireTurn_of_disabled _ _ hrx,
      fun _ => rxDmaTurn_of_disabled _ _ hrx⟩

end Sys2Proof.Machine

/-! PROOFS. The phases of the commands one by one: RING_INIT (40_ring.md R141), the SYNC commands (41_coherency.md R163, R164),
TX_SUBMIT (42_tx.md R182), RX_POLL and RX_RELEASE (43_rx.md R211, R212), DEV_START (45_device.md R259) and its
configuration check (R258), and the lines of a Flush or an Invalidate inside any of them (R160, R162). -/

namespace Sys2Proof.Machine

/-! ## RING_INIT (R141) -/

theorem exec_ringInit_first (r : Ring) (s : State) (hp : s.phase = .first) :
    exec (.ringInit r) s =
      if s.life = .stopped ∨ s.life = .error then .next (s.atPhase (.ringInit r) (.ringInit .i2))
      else .next (s.endCommand .badState 0 0#32) := by
  simp only [exec, execRingInit, hp, legal]
  cases s.life <;> rfl

theorem exec_ringInit (r : Ring) (p : RingPhase) (s : State) (hp : s.phase = .ringInit p) :
    exec (.ringInit r) s =
      (ringInitStep r p s).2.elim (.next ((ringInitStep r p s).1.endCommand .ok 0 0#32)) fun q =>
        .next ((ringInitStep r p s).1.atPhase (.ringInit r) (.ringInit q)) := by
  simp only [exec, execRingInit, hp]
  split <;> next h => rw [h]; rfl

/-- Settles O26: each phase is one step of `ringInitStep`. -/
theorem ringInitPhases : Obligations.RingInitPhases := by
  intro r s
  refine ⟨exec_ringInit_first r s, fun hp => ?_, fun hp => ?_, fun hp => ?_, fun hp => ?_, fun hp => ?_⟩
  all_goals rw [exec_ringInit r _ s hp]
  · rfl
  · cases r <;> rfl
  · rfl
  · rfl
  · cases r <;> rfl

/-! ## The SYNC commands (R163, R164) -/

theorem exec_syncFlush_first (s : State) (hp : s.phase = .first) :
    exec .syncFlush s =
      if 2 ^ 32 < s.arg0.toNat + s.arg1.toNat then .next (s.endCommand .badArg 0 0#32)
      else .next (s.atPhase .syncFlush (.flushF2 (s.cfg.syncLines s.arg0 s.arg1.toNat))) := by
  simp only [exec, execSyncFlush, hp, wraps, decide_eq_true_eq]
  rfl

theorem exec_syncInvalidate_first (s : State) (hp : s.phase = .first) :
    exec .syncInvalidate s =
      if 2 ^ 32 < s.arg0.toNat + s.arg1.toNat then .next (s.endCommand .badArg 0 0#32)
      else .next (s.atPhase .syncInvalidate (.invalidateV2 (s.cfg.syncLines s.arg0 s.arg1.toNat))) := by
  simp only [exec, execSyncInvalidate, hp, wraps, decide_eq_true_eq]
  rfl

/-- Settles O33: the range check, and the end with no line left. -/
theorem syncPhases : Obligations.SyncPhases := by
  refine ⟨exec_syncFlush_first, exec_syncInvalidate_first, fun s hp => ?_, fun s hp => ?_⟩
  · simp only [exec, execSyncFlush, hp]
    rfl
  · simp only [exec, execSyncInvalidate, hp]
    rfl

/-! ## TX_SUBMIT (R182) -/

/-- The phase that the state names does not matter to what a phase does once it is chosen. -/
def State.inPhase (s : State) (p : Phase) : State := { s with phase := p }

theorem exec_txSubmit_first (s : State) (hp : s.phase = .first) : exec .txSubmit s = txStart s := by
  simp only [exec, execTxSubmit, hp]

theorem exec_txSubmit_txT1 (s : State) (todo : List Nat) (hp : s.phase = .txT1 todo) :
    exec .txSubmit s = txT1 todo s := by
  simp only [exec, execTxSubmit, hp]

theorem txCheckSlot_inPhase (s : State) (p : Phase) : txCheckSlot (s.inPhase p) = txCheckSlot s := rfl

/-- One line of a Flush or an Invalidate does not see the phase that the state names. -/
theorem syncLine_inPhase (o : LineOp) (i : Instr) (again : List Nat → Phase) (done : State → Answer) (todo : List Nat)
    (s : State) (p : Phase) (hdone : ∀ u, done (u.inPhase p) = done u) :
    syncLine i o.act again done todo (s.inPhase p) = syncLine i o.act again done todo s := by
  have hact (l : Nat) : o.act (s.inPhase p) l = (o.act s l).inPhase p := by cases o <;> rfl
  have hdraw : (s.inPhase p).draw = s.draw := rfl
  unfold syncLine
  rw [hdraw]
  split
  · exact hdone s
  · rw [hact, hdone]
    rfl

theorem txT1_inPhase (todo : List Nat) (s : State) (p : Phase) : txT1 todo (s.inPhase p) = txT1 todo s :=
  syncLine_inPhase .invalidate _ _ _ todo s p fun u => txCheckSlot_inPhase u p

theorem txStart_eq (s : State) :
    txStart s =
      if s.life = .running then
        if s.cfg.lenMax < s.txLen ∨ 2 ^ 32 < s.arg0.toNat + s.txLen then .next (s.endCommand .badArg 0 0#32)
        else txT1 (s.cfg.syncLines s.txSlot s.cfg.descSize) s
      else .next (s.endCommand .badState 0 0#32) := by
  simp only [txStart, legal, wraps, beq_iff_eq, decide_eq_true_eq]
  by_cases hl : s.life = .running
  · rw [if_pos hl, if_pos hl]
    by_cases hlen : s.cfg.lenMax < s.txLen
    · rw [if_pos hlen, if_pos (.inl hlen)]
      rfl
    · by_cases hw : 2 ^ 32 < s.arg0.toNat + s.txLen
      · rw [if_neg hlen, if_pos hw, if_pos (.inr hw)]
        rfl
      · rw [if_neg hlen, if_neg hw, if_neg (not_or.mpr ⟨hlen, hw⟩)]
  · rw [if_neg hl, if_neg hl]
    rfl

theorem exec_txSubmit_txT2 (s : State) (w : Word) (hp : s.phase = .txT2 w) :
    exec .txSubmit s = .next ((s.memWrite (bufWordOf s.cfg s.txSlot) (s.cfg.toDma s.arg0)).atPhase .txSubmit
      (.txT3 w (s.cfg.syncLines s.arg0 s.txLen))) := by
  simp only [exec, execTxSubmit, hp]
  rfl

theorem exec_txSubmit_txT4 (s : State) (w : Word) (hp : s.phase = .txT4 w) :
    exec .txSubmit s = .next ((s.memWrite s.txSlot (s.cfg.txWord0 w s.txLen)).atPhase .txSubmit
      (.txT5 (s.cfg.syncLines s.txSlot s.cfg.descSize))) := by
  simp only [exec, execTxSubmit, hp]
  rfl

theorem exec_txSubmit_txT1_nil (s : State) (hp : s.phase = .txT1 []) :
    exec .txSubmit s =
      if s.cfg.own (s.memRead s.txSlot) then .next ((s.memReadState s.txSlot).endCommand .noDesc 0 0#32)
      else .next ((s.memReadState s.txSlot).atPhase .txSubmit (.txT2 (s.memRead s.txSlot))) :=
  exec_txSubmit_txT1 s [] hp

theorem exec_txSubmit_txT6 (s : State) (hp : s.phase = .txT6) :
    exec .txSubmit s = .next ({ s with txKick := true, expired := false }.atPhase .txSubmit
      (.txT7 (s.cfg.syncLines s.txSlot s.cfg.descSize))) := by
  simp only [exec, execTxSubmit, hp]
  rfl

theorem exec_txSubmit_txT7_nil (s : State) (hp : s.phase = .txT7 []) :
    exec .txSubmit s =
      if s.cfg.own (s.memRead s.txSlot) then
        if s.expired then .next ((s.memReadState s.txSlot).endCommand .txTimeout 0 0#32)
        else .next ((s.memReadState s.txSlot).atPhase .txSubmit (.txT7 (s.cfg.syncLines s.txSlot s.cfg.descSize)))
      else .next ((s.memReadState s.txSlot).atPhase .txSubmit .txT8) := by
  simp only [exec, execTxSubmit, hp]
  rfl

/-- Settles O39: T1's checks in R295's order, its test, and the later phases. -/
theorem txSubmitPhases : Obligations.TxSubmitPhases := by
  refine ⟨fun s hp => ?_, fun s hp => ?_, fun s => ⟨exec_txSubmit_txT2 s, fun w hp => ?_, exec_txSubmit_txT4 s,
    fun hp => ?_, exec_txSubmit_txT6 s, fun hp => ?_⟩⟩
  · rw [exec_txSubmit_first s hp, txStart_eq]
    refine ⟨fun hl => if_neg hl, fun hl hlen => ?_, fun hl hlen hw => ?_, fun hl hlen hw => ?_⟩
    · rw [if_pos hl, if_pos (.inl hlen)]
    · rw [if_pos hl, if_pos (.inr hw)]
    · rw [if_pos hl, if_neg (by omega), exec_txSubmit_txT1 _ _ rfl]
      exact (txT1_inPhase _ s _).symm
  · rw [exec_txSubmit_txT1_nil s hp]
    exact ⟨fun h => if_pos h, fun h => if_neg (by simp [h]), Store.afterRead_mem s.cfg _ s.store⟩
  · simp only [exec, execTxSubmit, hp]
    rfl
  · simp only [exec, execTxSubmit, hp]
    rfl
  · simp only [exec, execTxSubmit, hp]
    rfl

theorem exec_devStart_devS3 (s : State) (hp : s.phase = .devS3) :
    exec .devStart s = .next (s.startReset.atPhase .devStart .devS4) := by
  simp only [exec, execDevStart, hp]
  rfl

theorem exec_devStart_devS4 (s : State) (hp : s.phase = .devS4) :
    exec .devStart s =
      if (s.regRead .maccr).getLsbD 31 then
        if s.cfg.resetBounded && s.expired then .next ({ s with life := .error }.endCommand .resetTimeout 0 0#32)
        else .next (s.atPhase .devStart .devS4)
      else .next (s.atPhase .devStart .devS5) := by
  simp only [exec, execDevStart, hp]
  rfl

/-- Settles O40: the two phases that clear the flag, and the two tests, each with the condition before the timer. -/
theorem boundedWaits : Obligations.BoundedWaits := by
  refine ⟨fun s hp => ⟨_, exec_txSubmit_txT6 s hp, rfl, rfl⟩, fun s hp => ?_,
    fun s hp => ⟨_, exec_devStart_devS3 s hp, rfl, rfl⟩, fun s hp => ?_⟩
  · rw [exec_txSubmit_txT7_nil s hp]
    exact ⟨fun h => if_neg (by simp [h]), fun h he => by rw [if_pos h, if_pos he],
      fun h he => by rw [if_pos h, if_neg (by simp [he])]⟩
  · rw [exec_devStart_devS4 s hp]
    refine ⟨fun h => if_neg (Bool.eq_false_iff.mp h), fun h hb he => ?_, fun h hn => ?_⟩
    · rw [if_pos h, if_pos (by rw [hb, he]; rfl)]
    · rw [if_pos h, if_neg (by simpa using hn)]

/-! ## RX_POLL and RX_RELEASE (R211, R212) -/

theorem exec_rxPoll_first (s : State) (hp : s.phase = .first) :
    exec .rxPoll s =
      if s.life = .running ∧ s.rxOut = false then rxP1 (s.cfg.syncLines s.rxSlot s.cfg.descSize) s
      else .next (s.endCommand .badState 0 0#32) := by
  simp only [exec, execRxPoll, hp, legal, beq_iff_eq]
  by_cases hl : s.life = .running
  · cases ho : s.rxOut
    · simp [hl]
    · simp [hl]
      rfl
  · simp [hl]
    rfl

theorem exec_rxPoll_rxP1 (s : State) (todo : List Nat) (hp : s.phase = .rxP1 todo) :
    exec .rxPoll s = rxP1 todo s := by
  simp only [exec, execRxPoll, hp]

theorem rxP1_inPhase (todo : List Nat) (s : State) (p : Phase) : rxP1 todo (s.inPhase p) = rxP1 todo s :=
  syncLine_inPhase .invalidate _ _ _ todo s p fun _ => rfl

theorem rxCheckSlot_eq (s : State) :
    rxCheckSlot s =
      if s.cfg.own (s.memRead s.rxSlot) = true ∧ s.cfg.rxBad (s.memRead s.rxSlot) = false then
        .next ((s.memReadState s.rxSlot).atPhase .rxPoll (.rxP2 (s.memRead s.rxSlot)))
      else .next ((s.memReadState s.rxSlot).endCommand .noPacket 0 0#32) := by
  unfold rxCheckSlot
  cases s.cfg.own (s.memRead s.rxSlot) <;> cases s.cfg.rxBad (s.memRead s.rxSlot) <;> rfl

theorem exec_rxPoll_rxP1_nil (s : State) (hp : s.phase = .rxP1 []) : exec .rxPoll s = rxCheckSlot s :=
  exec_rxPoll_rxP1 s [] hp

theorem exec_rxPoll_rxP2 (s : State) (w : Word) (hp : s.phase = .rxP2 w) :
    exec .rxPoll s = rxP2Lines (s.cfg.len w) s.viewAddr (s.cfg.syncLines s.viewAddr (s.cfg.len w))
      (s.memReadState (bufWordOf s.cfg s.rxSlot)) := by
  simp only [exec, execRxPoll, hp]

theorem exec_rxPoll_rxP2Lines (s : State) (n : Nat) (b : Word) (todo : List Nat) (hp : s.phase = .rxP2Lines n b todo) :
    exec .rxPoll s = rxP2Lines n b todo s := by
  simp only [exec, execRxPoll, hp]

theorem rxP2Lines_inPhase (n : Nat) (b : Word) (todo : List Nat) (s : State) (p : Phase) :
    rxP2Lines n b todo (s.inPhase p) = rxP2Lines n b todo s :=
  syncLine_inPhase .invalidate _ _ _ todo s p fun _ => rfl

theorem exec_rxPoll_rxP3 (s : State) (n : Nat) (b : Word) (hp : s.phase = .rxP3 n b) :
    exec .rxPoll s = .next ({ s with rxOut := true, rxOutSlot := s.rxCur }.endCommand .ok n b) := by
  simp only [exec, execRxPoll, hp]
  rfl

theorem exec_rxRelease_first (s : State) (hp : s.phase = .first) :
    exec .rxRelease s =
      if s.life = .running ∧ s.rxOut = true then .next (s.atPhase .rxRelease .rxL2)
      else .next (s.endCommand .badState 0 0#32) := by
  simp only [exec, execRxRelease, hp, legal, beq_iff_eq]
  by_cases hl : s.life = .running
  · cases ho : s.rxOut <;> simp [hl] <;> rfl
  · simp [hl]
    rfl

theorem exec_rxRelease_rxL2 (s : State) (hp : s.phase = .rxL2) :
    exec .rxRelease s = rxL2Lines (s.cfg.syncLines s.releaseSlot s.cfg.descSize) s.releaseWrite := by
  simp only [exec, execRxRelease, hp]

theorem exec_rxRelease_rxL2Lines (s : State) (todo : List Nat) (hp : s.phase = .rxL2Lines todo) :
    exec .rxRelease s = rxL2Lines todo s := by
  simp only [exec, execRxRelease, hp]

theorem rxL2Lines_inPhase (todo : List Nat) (s : State) (p : Phase) :
    rxL2Lines todo (s.inPhase p) = rxL2Lines todo s :=
  syncLine_inPhase .flush _ _ _ todo s p fun _ => rfl

theorem exec_rxRelease_rxL3 (s : State) (hp : s.phase = .rxL3) :
    exec .rxRelease s =
      .next ({ s with rxCur := s.cfg.advance .rx s.rxCur, rxOut := false }.endCommand .ok 0 0#32) := by
  simp only [exec, execRxRelease, hp]
  rfl

/-- Settles O45: the checks in R295's order, the two tests of P1, and the later phases of both commands. -/
theorem rxPhases : Obligations.RxPhases := by
  refine ⟨fun s hp => ?_, fun s hp => ?_, fun s w hp => ?_, fun s n b hp => exec_rxPoll_rxP2Lines s n b [] hp,
    fun s n b hp => exec_rxPoll_rxP3 s n b hp, fun s hp => ?_, fun s hp => ?_,
    fun s hp => exec_rxRelease_rxL2Lines s [] hp, fun s hp => exec_rxRelease_rxL3 s hp⟩
  · rw [exec_rxPoll_first s hp]
    refine ⟨fun h => if_neg ?_, fun hl ho => ?_⟩
    · rintro ⟨hl, ho⟩
      simp [hl, ho] at h
    · rw [if_pos ⟨hl, ho⟩, exec_rxPoll_rxP1 _ _ rfl]
      exact (rxP1_inPhase _ s _).symm
  · rw [exec_rxPoll_rxP1_nil s hp, rxCheckSlot_eq]
    refine ⟨fun h => if_neg ?_, fun ho hb => if_pos ⟨ho, hb⟩⟩
    rintro ⟨ho, hb⟩
    simp [ho, hb] at h
  · rw [exec_rxPoll_rxP2 s w hp, exec_rxPoll_rxP2Lines _ _ _ _ rfl]
    exact (rxP2Lines_inPhase _ _ _ (s.memReadState _) _).symm
  · rw [exec_rxRelease_first s hp]
    refine ⟨fun h => if_neg ?_, fun hl ho => if_pos ⟨hl, ho⟩⟩
    rintro ⟨hl, ho⟩
    simp [hl, ho] at h
  · rw [exec_rxRelease_rxL2 s hp, exec_rxRelease_rxL2Lines _ _ rfl]
    exact (rxL2Lines_inPhase _ s.releaseWrite _).symm

/-! ## One line at a time in every command (R160, R162) -/

theorem exec_ringInit_i5 (r : Ring) (s : State) (todo : List Nat) (hp : s.phase = .ringInit (.i5 todo)) :
    exec (.ringInit r) s =
      syncLine (.ringInit r) State.flushLine (fun l => .ringInit (.i5 l)) (proceed (.ringInit r) (.ringInit .i6)) todo
        s := by
  rw [exec_ringInit r _ s hp, syncLine]
  cases ht : takePick s.draw.pick todo with
  | none => simp only [ringInitStep, ht]; rfl
  | some taken => cases he : taken.2.isEmpty <;> simp only [ringInitStep, ht, he] <;> rfl

theorem exec_devStart_devS6 (s : State) (p : RingPhase) (hp : s.phase = .devS6 p) :
    exec .devStart s =
      (ringInitStep .tx p s).2.elim (.next ((ringInitStep .tx p s).1.atPhase .devStart (.devS7 .i2))) fun q =>
        .next ((ringInitStep .tx p s).1.atPhase .devStart (.devS6 q)) := by
  simp only [exec, execDevStart, hp]
  split <;> next h => rw [h]; rfl

theorem exec_devStart_devS7 (s : State) (p : RingPhase) (hp : s.phase = .devS7 p) :
    exec .devStart s =
      (ringInitStep .rx p s).2.elim (.next ((ringInitStep .rx p s).1.atPhase .devStart .devS8)) fun q =>
        .next ((ringInitStep .rx p s).1.atPhase .devStart (.devS7 q)) := by
  simp only [exec, execDevStart, hp]
  split <;> next h => rw [h]; rfl

theorem exec_devStart_devS6_i5 (s : State) (todo : List Nat) (hp : s.phase = .devS6 (.i5 todo)) :
    exec .devStart s =
      syncLine .devStart State.flushLine (fun l => .devS6 (.i5 l)) (proceed .devStart (.devS6 .i6)) todo s := by
  rw [exec_devStart_devS6 s _ hp, syncLine]
  cases ht : takePick s.draw.pick todo with
  | none => simp only [ringInitStep, ht]; rfl
  | some taken => cases he : taken.2.isEmpty <;> simp only [ringInitStep, ht, he] <;> rfl

theorem exec_devStart_devS7_i5 (s : State) (todo : List Nat) (hp : s.phase = .devS7 (.i5 todo)) :
    exec .devStart s =
      syncLine .devStart State.flushLine (fun l => .devS7 (.i5 l)) (proceed .devStart (.devS7 .i6)) todo s := by
  rw [exec_devStart_devS7 s _ hp, syncLine]
  cases ht : takePick s.draw.pick todo with
  | none => simp only [ringInitStep, ht]; rfl
  | some taken => cases he : taken.2.isEmpty <;> simp only [ringInitStep, ht, he] <;> rfl

/-- The phase is one of `syncLine`, with `done` for what it does when no line is left. -/
def IsSyncLine (i : Instr) (o : LineOp) (todo : List Nat) (again : List Nat → Phase) (s : State) : Prop :=
  ∃ done : State → Answer, (∀ u : State, exec i (u.inPhase (again [])) = done u) ∧
    exec i s = syncLine i o.act again done todo s

theorem isSyncLine_of_linesLeft {i : Instr} {s : State} {o : LineOp} {todo : List Nat} {again : List Nat → Phase}
    (h : linesLeft i s.phase = some (o, todo, again)) : IsSyncLine i o todo again s := by
  unfold linesLeft at h
  split at h
  case h_1 r todo' hp => cases h; exact ⟨_, fun u => exec_ringInit_i5 r (u.inPhase _) [] rfl, exec_ringInit_i5 r s _ hp⟩
  case h_2 hp => cases h; exact ⟨finish 0 0#32, fun _ => rfl, by simp only [exec, execSyncFlush, hp]; rfl⟩
  case h_3 hp => cases h; exact ⟨finish 0 0#32, fun _ => rfl, by simp only [exec, execSyncInvalidate, hp]; rfl⟩
  case h_4 hp => cases h; exact ⟨txCheckSlot, fun _ => rfl, exec_txSubmit_txT1 s _ hp⟩
  case h_5 w todo' hp =>
    cases h
    exact ⟨proceed .txSubmit (.txT4 w), fun _ => rfl, by simp only [exec, execTxSubmit, hp]; rfl⟩
  case h_6 hp => cases h; exact ⟨proceed .txSubmit .txT6, fun _ => rfl, by simp only [exec, execTxSubmit, hp]; rfl⟩
  case h_7 hp => cases h; exact ⟨txCheckDone, fun _ => rfl, by simp only [exec, execTxSubmit, hp]; rfl⟩
  case h_8 hp => cases h; exact ⟨rxCheckSlot, fun _ => rfl, exec_rxPoll_rxP1 s _ hp⟩
  case h_9 n b todo' hp =>
    cases h
    exact ⟨proceed .rxPoll (.rxP3 n b), fun _ => rfl, exec_rxPoll_rxP2Lines s n b _ hp⟩
  case h_10 hp => cases h; exact ⟨proceed .rxRelease .rxL3, fun _ => rfl, exec_rxRelease_rxL2Lines s _ hp⟩
  case h_11 hp =>
    cases h
    exact ⟨_, fun u => exec_devStart_devS6_i5 (u.inPhase _) [] rfl, exec_devStart_devS6_i5 s _ hp⟩
  case h_12 hp =>
    cases h
    exact ⟨_, fun u => exec_devStart_devS7_i5 (u.inPhase _) [] rfl, exec_devStart_devS7_i5 s _ hp⟩
  case h_13 => cases h

/-- What such a phase does with the line that is taken. -/
theorem exec_of_taken {i : Instr} {s : State} {o : LineOp} {todo rest : List Nat} {again : List Nat → Phase} {x : Nat}
    (h : linesLeft i s.phase = some (o, todo, again)) (ht : takePick s.draw.pick todo = some (x, rest)) :
    exec i s =
      if rest = [] then exec i { o.act s x with phase := again [] } else .next ((o.act s x).atPhase i (again rest)) := by
  obtain ⟨done, hdone, he⟩ := isSyncLine_of_linesLeft h
  have hlast : exec i { o.act s x with phase := again [] } = done (o.act s x) := hdone (o.act s x)
  rw [he, hlast, syncLine, ht]
  cases rest <;> rfl

/-- Settles O19: every such phase is `syncLine`, which takes the line that the draw picks; every line can be picked. -/
theorem lineSteps : Obligations.LineSteps := by
  refine ⟨fun i s o todo again h hne => ?_, fun i s o todo again h x hx => ?_, Config.syncLines_coherent⟩
  · obtain ⟨y, ys, rfl⟩ := List.exists_cons_of_ne_nil hne
    obtain ⟨x, rest, ht, hperm, -⟩ := takePick_cons s.draw.pick y ys
    exact ⟨x, rest, ht, hperm, exec_of_taken h ht⟩
  · obtain ⟨pick, rest, ht⟩ := takePick_any todo x hx
    exact ⟨pick, rest, takePick_perm ht, exec_of_taken (s := { s with draw := ⟨pick, s.draw.phy⟩ }) h ht⟩

/-! ## DEV_START (R258, R259) -/

theorem Config.wellFormed_iff (c : Config) : c.wellFormed = true ↔
    (∃ k, k < 16 ∧ c.txCap = 2 ^ k) ∧ (∃ k, k < 16 ∧ c.rxCap = 2 ^ k) ∧ c.descSize % c.descAlign = 0 ∧
      c.descSize = 4 * c.descWords ∧ c.bufWord < c.descWords ∧ c.txBase.toNat % c.descAlign = 0 ∧
      c.rxBase.toNat % c.descAlign = 0 ∧ c.ifmode ∈ [0, 1, 2, 3, 4, 5, 6] := by
  have hmode : c.ifmode < 7 ↔ c.ifmode ∈ [0, 1, 2, 3, 4, 5, 6] := by
    simp only [List.mem_cons, List.not_mem_nil, or_false]
    omega
  have hcap (n : Nat) : (∃ k, k < 16 ∧ 2 ^ k = n) ↔ ∃ k, k < 16 ∧ n = 2 ^ k := by simp only [eq_comm]
  simp only [Config.wellFormed, Bool.and_eq_true, decide_eq_true_eq, capacityOk_iff, ifmodeOk, and_assoc, hmode, hcap]

/-- Settles O51: S2 by the configuration check, and the check spelt out. -/
theorem devStartConfigCheck : Obligations.DevStartConfigCheck := by
  intro s
  refine ⟨fun hp => ⟨fun hc => ?_, fun hc => ?_⟩, ?_, fun hal => ?_⟩
  · simp only [exec, execDevStart, hp, hc, if_true]
    rfl
  · simp only [exec, execDevStart, hp, hc]
    rfl
  · rw [Config.wellFormed_iff]
    simp only [Nat.dvd_iff_mod_eq_zero]
  · rw [Config.wellFormed_iff, hal]

theorem or_swRst_and_not_swRst (v : Word) : (v ||| Maccr.swRst) &&& ~~~Maccr.swRst = v &&& ~~~Maccr.swRst := by
  refine BitVec.eq_of_getLsbD_eq fun j _ => ?_
  rw [BitVec.getLsbD_and, BitVec.getLsbD_or, BitVec.getLsbD_and, BitVec.getLsbD_not]
  cases Maccr.swRst.getLsbD j <;> simp

theorem State.startReset_eq (s : State) :
    s.startReset = { s with
      mac := { s.mac with maccr := s.mac.maccr &&& 0x7FFFFFFF#32 }, macRst := true, expired := false } := by
  have hm : (0x7FFFFFFF#32 : Word) = ~~~Maccr.swRst := by decide
  have hv : (s.regRead .maccr ||| Maccr.swRst) &&& ~~~Maccr.swRst = s.mac.maccr &&& ~~~Maccr.swRst := by
    rw [or_swRst_and_not_swRst]
    cases hr : s.macRst with
    | false => rw [s.regRead_maccr_of_no_reset hr]
    | true => rw [State.regRead, hr, if_pos rfl, or_swRst_and_not_swRst]
  have h31 : (s.regRead .maccr ||| Maccr.swRst).getLsbD 31 = true := by simp [Maccr.swRst]
  rw [State.startReset, State.regWrite, hv, h31, Bool.or_true, hm]

theorem State.enableMac_of_no_reset (s : State) (hr : s.macRst = false) (hm : s.mac.maccr.getLsbD 31 = false)
    (hx : s.cfg.startExtra.getLsbD 31 = false) :
    s.enableMac = { s with mac := { s.mac with maccr := s.mac.maccr ||| 0xF#32 ||| s.cfg.startExtra } } := by
  have he : Maccr.enableM = 0xF#32 := by decide
  have h31 : (s.mac.maccr ||| 0xF#32 ||| s.cfg.startExtra).getLsbD 31 = false := by
    rw [BitVec.getLsbD_or, BitVec.getLsbD_or, hm, hx]
    decide
  rw [State.enableMac, s.regRead_maccr_of_no_reset hr, he, s.regWrite_maccr_of_bit31_clear _ h31]

/-- A step of RING_INIT's phases does not see the phase that the state names. -/
theorem ringInitStep_inPhase (r : Ring) (p : RingPhase) (s : State) (q : Phase) :
    ringInitStep r p (s.inPhase q) = ((ringInitStep r p s).1.inPhase q, (ringInitStep r p s).2) := by
  cases p with
  | i2 => rfl
  | i3 => cases r <;> rfl
  | i4 => rfl
  | i5 todo =>
    have hdraw : (s.inPhase q).draw = s.draw := rfl
    simp only [ringInitStep, hdraw]
    split <;> rfl
  | i6 => cases r <;> rfl

/-- RING_INIT's own phase, in words that DEV_START's S6 and S7 share: `go` and `stop` are where they go on. -/
theorem ring_phase_of_devStart (r : Ring) (p : RingPhase) (s : State) (go : RingPhase → Phase) (stop : Phase)
    (he : exec .devStart s =
      (ringInitStep r p s).2.elim (.next ((ringInitStep r p s).1.atPhase .devStart stop)) fun q =>
        .next ((ringInitStep r p s).1.atPhase .devStart (go q))) :
    ∃ t, exec (.ringInit r) { s with phase := .ringInit p } = .next t ∧
      (∀ q, t.phase = .ringInit q → exec .devStart s = .next (t.atPhase .devStart (go q))) ∧
      (t.op = none → exec .devStart s = .next ({ t with res0 := s.res0, res1 := s.res1 }.atPhase .devStart stop)) := by
  have hring := exec_ringInit r p (s.inPhase (.ringInit p)) rfl
  rw [ringInitStep_inPhase] at hring
  cases hq : (ringInitStep r p s).2 with
  | some q =>
    rw [hq] at hring he
    refine ⟨_, hring, fun q' hq' => ?_, fun ho => by cases ho⟩
    cases hq'
    exact he
  | none =>
    rw [hq] at hring he
    refine ⟨_, hring, fun q' hq' => (by cases hq'), fun _ => ?_⟩
    obtain ⟨-, hu⟩ := eq_rewind_of_ringInitStep (r := r) (p := p) (s := s) (u := (ringInitStep r p s).1)
      (by rw [← hq])
    rw [he, hu]
    cases r <;> rfl

theorem exec_devStart_devS12 (s : State) (ls : LinkState) (hp : s.phase = .devS12 ls) :
    exec .devStart s =
      if linkRefused s.cfg ls then .next ({ s with life := .error }.endCommand .noLink 0 0#32)
      else .next ((s.linkWrite ls).atPhase .devStart .devS13) := by
  simp only [exec, execDevStart, hp]
  rfl

/-- Settles O52: the phases one by one; S6 and S7 run RING_INIT's own phases. -/
theorem devStartPhases : Obligations.DevStartPhases := by
  refine ⟨fun s hp hl => ?_, fun s hp => ?_, fun s hp => ?_,
    fun s p hp => ring_phase_of_devStart .tx p s _ _ (exec_devStart_devS6 s p hp),
    fun s p hp => ring_phase_of_devStart .rx p s _ _ (exec_devStart_devS7 s p hp), fun s hp => ?_, fun s hp => ?_,
    fun s hp => ?_, fun s hp => ⟨fun ht => ?_, fun ls ht => ?_⟩, fun s ls hp => ⟨fun hup hmode => ?_, fun hok => ?_⟩,
    fun s hp => ?_⟩
  · have hlegal : legal .devStart s.life = true := by simpa [legal] using hl
    simp only [exec, execDevStart, hp, hlegal, if_true]
    rfl
  · rw [exec_devStart_devS3 s hp, s.startReset_eq]
  · simp only [exec, execDevStart, hp]
    rfl
  · simp only [exec, execDevStart, hp]
    rfl
  · have hm : ~~~(0x000FF000#32 : Word) = 0xFFF00FFF#32 := by decide
    simp only [exec, execDevStart, hp, State.programRings, Config.dblacStart, hm]
    rfl
  · have he : exec .devStart s = .next (s.enableMac.atPhase .devStart .devS11) := by
      simp only [exec, execDevStart, hp]
      rfl
    rw [he]
    exact ⟨rfl, fun hr hm hx => by rw [s.enableMac_of_no_reset hr hm hx]⟩
  · simp only [exec, execDevStart, hp, ht]
    rfl
  · simp only [exec, execDevStart, hp, ht]
    rfl
  · rw [exec_devStart_devS12 s ls hp, if_pos ((linkRefused_iff _ _).mpr ⟨hup, hmode⟩)]
  · have hgoes : ¬ linkRefused s.cfg ls = true := by
      rw [linkRefused_iff]
      rintro ⟨hup, hmode⟩
      exact hok.elim (by simp [hup]) hmode
    rw [exec_devStart_devS12 s ls hp, if_neg hgoes]
    exact ⟨rfl, fun hr hm => by rw [s.linkWrite_of_no_reset ls hr hm]⟩
  · simp only [exec, execDevStart, hp]
    rfl

end Sys2Proof.Machine

/-! PROOFS. The CPU side, the registers, the cache agent, the lines of a range and the DMA agents' writes, one operation at a
time (20_memory.md R77 to R82, 41_coherency.md R160 to R170), and the later writers of a word 0 (40_ring.md R145). -/

namespace Sys2Proof

/-! ## Lines of a range (R161) -/

theorem Config.mem_lines_iff (c : Config) (a n l : Nat) (hn : 0 < n) :
    l ∈ c.lines a n ↔ l % c.line = 0 ∧ l < a + n ∧ a < l + c.line := by
  have hpos := c.line_pos
  have hrange : l ∈ c.lines a n ↔ ∃ q, a / c.line ≤ q ∧ q ≤ (a + n - 1) / c.line ∧ q * c.line = l := by
    have hle : a / c.line ≤ (a + n - 1) / c.line := Nat.div_le_div_right (by omega)
    rw [Config.lines, if_neg (by omega)]
    simp only [List.mem_map, List.mem_range]
    constructor
    · rintro ⟨i, hi, rfl⟩
      exact ⟨a / c.line + i, by omega, by omega, rfl⟩
    · rintro ⟨q, h1, h2, rfl⟩
      exact ⟨q - a / c.line, by omega, by rw [Nat.add_sub_cancel' h1]⟩
  rw [hrange]
  constructor
  · rintro ⟨q, h1, h2, rfl⟩
    have h2' := (Nat.le_div_iff_mul_le hpos).mp h2
    have h1' := Nat.lt_mul_of_div_lt (Nat.lt_succ_of_le h1) hpos
    rw [Nat.succ_mul] at h1'
    exact ⟨Nat.mul_mod_left q c.line, by omega, h1'⟩
  · rintro ⟨hmod, hlt, hgt⟩
    refine ⟨l / c.line, ?_, ?_, Nat.div_mul_cancel (Nat.dvd_of_mod_eq_zero hmod)⟩
    · refine Nat.lt_succ_iff.mp ((Nat.div_lt_iff_lt_mul hpos).mpr ?_)
      rw [Nat.succ_mul, Nat.div_mul_cancel (Nat.dvd_of_mod_eq_zero hmod)]
      exact hgt
    · exact Nat.div_le_div_right (by omega)

theorem Config.lines_sorted (c : Config) (a n : Nat) : (c.lines a n).Pairwise (· < ·) := by
  unfold Config.lines
  split
  · exact List.Pairwise.nil
  · refine List.pairwise_map.mpr (List.pairwise_lt_range.imp fun h => ?_)
    exact Nat.mul_lt_mul_of_pos_right (by omega) c.line_pos

namespace Machine

/-- Settles O32: the multiples of LINE between the first and the last byte rounded down, counted up. -/
theorem linesOfRange : Obligations.LinesOfRange := fun c a n =>
  ⟨by simp [Config.lines], c.lines_sorted a n, fun hn l => c.mem_lines_iff a n l hn⟩

end Machine

/-! ## The later writers of a word 0 (R145) -/

section
variable {c : Config} (h : c.FieldsApart)
include h

theorem Config.ownM_getLsbD (j : Nat) : c.ownM.getLsbD j = decide (j = c.layout.own) := getLsbD_bit _ j h.own_lt

theorem Config.eorM_getLsbD (j : Nat) : c.eorM.getLsbD j = decide (j = c.eorBit) := getLsbD_bit _ j h.eor_lt

theorem Config.lenM_getLsbD (j : Nat) : c.lenM.getLsbD j = decide (j < c.layout.lenBits) := by
  have hle := h.len_le_own.trans h.own_lt.le
  rw [Config.lenM, Config.lenMax, BitVec.getLsbD_ofNat, Nat.testBit_two_pow_sub_one]
  by_cases hj : j < c.layout.lenBits
  · simp [hj, hj.trans_le hle]
  · simp [hj]

/-- The draw's bits are those outside OWN, EOR and LEN. -/
theorem Config.drawn_getLsbD (x : Word) (j : Nat) (hj : j < 32) :
    (x &&& ~~~(c.ownM ||| c.eorM ||| c.lenM)).getLsbD j =
      (x.getLsbD j && !(decide (j = c.layout.own) || decide (j = c.eorBit) || decide (j < c.layout.lenBits))) := by
  simp only [BitVec.getLsbD_and, BitVec.getLsbD_not, BitVec.getLsbD_or, Config.ownM_getLsbD h, Config.eorM_getLsbD h,
    Config.lenM_getLsbD h, hj, decide_true, Bool.true_and]

theorem Config.txDoneWord_getLsbD (w x : Word) (j : Nat) (hj : j < 32) :
    (c.txDoneWord w x).getLsbD j =
      ((w.getLsbD j && (decide (j = c.eorBit) || decide (j < c.layout.lenBits))) ||
        (x.getLsbD j && !(decide (j = c.layout.own) || decide (j = c.eorBit) || decide (j < c.layout.lenBits)))) := by
  rw [Config.txDoneWord, BitVec.getLsbD_or, Config.drawn_getLsbD h x j hj, BitVec.getLsbD_and, BitVec.getLsbD_or,
    Config.eorM_getLsbD h, Config.lenM_getLsbD h]

theorem Config.rxDeliverWord_getLsbD (w x : Word) (n j : Nat) (hj : j < 32) :
    (c.rxDeliverWord w n x).getLsbD j =
      (decide (j = c.layout.own) || (w.getLsbD j && decide (j = c.eorBit)) || n.testBit j ||
        (x.getLsbD j && !(decide (j = c.layout.own) || decide (j = c.eorBit) || decide (j < c.layout.lenBits)))) := by
  rw [Config.rxDeliverWord, BitVec.getLsbD_or, Config.drawn_getLsbD h x j hj, BitVec.getLsbD_or, BitVec.getLsbD_or,
    BitVec.getLsbD_and, Config.ownM_getLsbD h, Config.eorM_getLsbD h, BitVec.getLsbD_ofNat, decide_eq_true hj,
    Bool.true_and]

theorem Config.own_txDoneWord (w x : Word) : c.own (c.txDoneWord w x) = false := by
  rw [Config.own, Config.txDoneWord_getLsbD h w x _ h.own_lt]
  simp [h.own_ne_eor, h.len_le_own]

theorem Config.eor_txDoneWord (w x : Word) : c.eor (c.txDoneWord w x) = c.eor w := by
  rw [c.eor_eq_getLsbD _ h.eor_lt, c.eor_eq_getLsbD _ h.eor_lt, Config.txDoneWord_getLsbD h w x _ h.eor_lt]
  simp

theorem Config.len_txDoneWord (w x : Word) : c.len (c.txDoneWord w x) = c.len w := by
  have hle := h.len_le_own.trans h.own_lt.le
  have hlt : c.len w ≤ c.lenMax := by
    rw [c.len_eq_mod w hle, c.le_lenMax_iff]
    exact Nat.mod_lt _ (Nat.two_pow_pos _)
  refine c.len_eq_of_low_bits hle hlt fun j hj => ?_
  rw [Config.txDoneWord_getLsbD h w x j (hj.trans_le hle), c.len_eq_mod w hle, Nat.testBit_mod_two_pow,
    BitVec.testBit_toNat]
  simp [hj]

theorem Config.own_rxDeliverWord (w x : Word) (n : Nat) : c.own (c.rxDeliverWord w n x) = true := by
  rw [Config.own, Config.rxDeliverWord_getLsbD h w x n _ h.own_lt]
  simp

theorem Config.eor_rxDeliverWord (w x : Word) {n : Nat} (hn : n ≤ c.lenMax) :
    c.eor (c.rxDeliverWord w n x) = c.eor w := by
  rw [c.eor_eq_getLsbD _ h.eor_lt, c.eor_eq_getLsbD _ h.eor_lt, Config.rxDeliverWord_getLsbD h w x n _ h.eor_lt,
    c.testBit_of_le_lenMax hn h.len_le_eor]
  simp [h.own_ne_eor.symm]

theorem Config.len_rxDeliverWord (w x : Word) {n : Nat} (hn : n ≤ c.lenMax) : c.len (c.rxDeliverWord w n x) = n := by
  have hle := h.len_le_own.trans h.own_lt.le
  refine c.len_eq_of_low_bits hle hn fun j hj => ?_
  rw [Config.rxDeliverWord_getLsbD h w x n j (hj.trans_le hle)]
  simp [(hj.trans_le h.len_le_own).ne, (hj.trans_le h.len_le_eor).ne, hj]

theorem Config.releaseWord_getLsbD (w : Word) (j : Nat) :
    (c.releaseWord w).getLsbD j = (w.getLsbD j && decide (j ≠ c.layout.own)) := by
  rw [Config.releaseWord, BitVec.getLsbD_and, BitVec.getLsbD_not, Config.ownM_getLsbD h]
  by_cases hj : j < 32
  · simp [hj]
  · simp [BitVec.getLsbD_of_ge w j (Nat.le_of_not_lt hj)]

theorem Config.eor_markWord (w : Word) : c.eor (c.markWord w) = true := by
  rw [c.eor_eq_getLsbD _ h.eor_lt, Config.markWord, BitVec.getLsbD_or, Config.eorM_getLsbD h]
  simp

theorem Config.own_releaseWord (w : Word) : c.own (c.releaseWord w) = false := by
  rw [Config.own, Config.releaseWord_getLsbD h]
  simp

theorem Config.eor_releaseWord (w : Word) : c.eor (c.releaseWord w) = c.eor w := by
  rw [c.eor_eq_getLsbD _ h.eor_lt, c.eor_eq_getLsbD _ h.eor_lt, Config.releaseWord_getLsbD h]
  simp [h.own_ne_eor.symm]

theorem Config.own_markWord (w : Word) : c.own (c.markWord w) = c.own w := by
  rw [Config.own, Config.own, Config.markWord, BitVec.getLsbD_or, Config.eorM_getLsbD h]
  simp [h.own_ne_eor]

end

namespace Machine

/-- Settles O38: each word read bit by bit at OWN, at EOR and below LEN's width. -/
theorem word0Writers : Obligations.Word0Writers := by
  intro c w x n hfits hn
  have h := c.fieldsApart_of_layoutFits hfits
  exact ⟨⟨Config.own_txDoneWord h w x, Config.eor_txDoneWord h w x, Config.len_txDoneWord h w x⟩,
    ⟨Config.own_rxDeliverWord h w x n, Config.eor_rxDeliverWord h w x hn, Config.len_rxDeliverWord h w x hn⟩,
    Config.releaseWord_getLsbD h w, Config.eor_markWord h w⟩

/-! ## The CPU side (R79 to R81) -/

/-- The bytes of an aligned word are in one line, one after another, and no address wraps. -/
theorem toNat_add_of_aligned (a : Word) (k : Nat) (ha : a.toNat % 4 = 0) (hk : k < 4) :
    (a + BitVec.ofNat 32 k).toNat = a.toNat + k := by
  have := a.isLt
  rw [BitVec.toNat_add, BitVec.toNat_ofNat]
  omega

theorem Config.lineOf_add_of_aligned (c : Config) (a k : Nat) (ha : a % 4 = 0) (hk : k < 4) :
    c.lineOf (a + k) = c.lineOf a := by
  have hw := c.word_within_line a ha
  have hle := c.lineOf_le a
  have hlt := c.lt_lineOf_add a
  have hpos := c.line_pos
  have hdiv : (a + k) / c.line = a / c.line := by
    refine Nat.div_eq_of_lt_le ?_ ?_
    · exact (Nat.div_mul_le_self a c.line).trans (Nat.le_add_right a k)
    · rw [Nat.succ_mul]
      change a + k < c.lineOf a + c.line
      omega
  rw [Config.lineOf, Config.lineOf, hdiv]

/-- R80: a CPU-side read returns the CPU's view of its four bytes; with the identity translation where DMA is coherent. -/
theorem State.memRead_eq_cpuBytes (s : State) (a : Word) (ha : a.toNat % 4 = 0)
    (hid : s.cfg.coherent = true → s.cfg.toDmaMap = []) :
    s.memRead a = bytesWord s.cfg.endian
      [s.cpuByte a, s.cpuByte (a + 1#32), s.cpuByte (a + 2#32), s.cpuByte (a + 3#32)] := by
  cases hc : s.cfg.coherent with
  | true =>
    simp only [State.memRead, Store.cpuWord, hc, if_true, Memory.readWord, Memory.readBytes_four, State.cpuByte,
      Config.toDma_id _ _ (hid hc), State.store_mem]
  | false =>
    rw [State.memRead, Store.cpuWord_eq _ _ _ hc]
    refine bytesWord_congr _ _ _ fun k hk => ?_
    have hbyte : s.cpuByte (a + BitVec.ofNat 32 k) = _ := s.cpuByte_eq _ hc
    rw [toNat_add_of_aligned a k ha hk, Config.lineOf_add_of_aligned _ _ _ ha hk] at hbyte
    have hle := s.cfg.lineOf_le a.toNat
    have hoff : a.toNat + k - s.cfg.lineOf a.toNat = a.toNat - s.cfg.lineOf a.toNat + k := by omega
    rw [hoff] at hbyte
    have hlist : [s.cpuByte a, s.cpuByte (a + 1#32), s.cpuByte (a + 2#32), s.cpuByte (a + 3#32)].getD k 0#8 =
        s.cpuByte (a + BitVec.ofNat 32 k) := by
      interval_cases k <;> simp
    rw [hlist, hbyte]
    simp [List.getD, List.getElem?_drop]

/-- Settles O20: the read-back and the frames of the CPU's view, and a read as four bytes of it. -/
theorem cpuAccess : Obligations.CpuAccess := fun s a v hs ha =>
  ⟨Store.cpuWord_cpuWrite s.cfg a v s.store (s.store_wf_of_storeOk hs) ha,
    fun hc => Store.cpuWrite_mem s.cfg a v s.store hc, Store.afterRead_mem s.cfg a s.store,
    fun hid => ⟨fun x hx => s.cpuByte_memWrite_other a v x hid hx, fun x => s.cpuByte_memReadState a x,
      s.memRead_eq_cpuBytes a ha hid⟩⟩

/-! ## The registers (R77, R110, R324) -/

theorem State.regRead_regWrite_same (s : State) (r : MacReg) (v : Word) (h : r ≠ .nptxpd) (h' : r ≠ .maccr) :
    (s.regWrite r v).regRead r = v := by
  cases r <;> first | rfl | exact absurd rfl h | exact absurd rfl h'

/-- A write of MACCR reads back below bit 31. -/
theorem State.regRead_maccr_regWrite (s : State) (v : Word) (j : Nat) (hj : j < 31) :
    ((s.regWrite .maccr v).regRead .maccr).getLsbD j = v.getLsbD j := by
  have hbit : Maccr.swRst.getLsbD j = false := (getLsbD_bit 31 j (by decide)).trans (decide_eq_false (by omega))
  have hkept : (v &&& ~~~Maccr.swRst).getLsbD j = v.getLsbD j := by
    rw [BitVec.getLsbD_and, BitVec.getLsbD_not, hbit, decide_eq_true (show j < 32 by omega)]
    simp
  have hread : (s.regWrite .maccr v).regRead .maccr = (if (s.regWrite .maccr v).macRst then
      (v &&& ~~~Maccr.swRst) ||| Maccr.swRst else v &&& ~~~Maccr.swRst) := rfl
  rw [hread]
  split
  · rw [BitVec.getLsbD_or, hbit, Bool.or_false, hkept]
  · exact hkept

/-- Settles O21: register by register, with MACCR's bit 31 as the reset flag. -/
theorem registerAccess : Obligations.RegisterAccess := by
  refine ⟨State.regRead_regWrite_same, fun s r q v hq => s.regRead_regWrite_other r q v hq, fun _ _ => rfl,
    fun s v hm => ⟨s.regRead_maccr_getLsbD_31 hm, rfl, fun j hj => s.regRead_maccr_regWrite v j hj⟩,
    fun _ _ => ⟨rfl, rfl⟩, fun q r h => ?_⟩
  revert h
  cases q <;> cases r <;> decide

/-! ## The cache agent (R168 to R170) -/

section
variable (s : State) (a : Word)

theorem cacheWriteBackTurn_of_dirty (keep : Bool) (bytes : List Byte) (hc : s.cfg.coherent = false)
    (h : s.cache.get (s.cfg.lineOf a.toNat) = some ⟨bytes, true⟩) :
    cacheWriteBackTurn a keep s = { s with
      mem := s.mem.writeBytes (s.cfg.toDma (BitVec.ofNat 32 (s.cfg.lineOf a.toNat))) bytes
      cache := if keep then s.cache.put (s.cfg.lineOf a.toNat) ⟨bytes, false⟩
        else s.cache.drop (s.cfg.lineOf a.toNat) } := by
  simp [cacheWriteBackTurn, hc, lineAt, h]

theorem cacheWriteBackTurn_of_not_dirty (keep : Bool)
    (h : ∀ y, s.cache.get (s.cfg.lineOf a.toNat) = some y → y.dirty = false) : cacheWriteBackTurn a keep s = s := by
  unfold cacheWriteBackTurn
  split
  · rfl
  · split
    · next y hy => simp [h y hy]
    · rfl

theorem cacheFillTurn_of_valid (y : CacheLine) (h : s.cache.get (s.cfg.lineOf a.toNat) = some y) :
    cacheFillTurn a s = s := by
  unfold cacheFillTurn
  split
  · rfl
  · have hfill : s.store.fill s.cfg (lineAt s.cfg a) = s.store := by simp [Store.fill, lineAt, h]
    rw [hfill, State.withStore_store]

theorem cacheDropTurn_of_not_clean
    (h : ∀ y, s.cache.get (s.cfg.lineOf a.toNat) = some y → y.dirty = true) : cacheDropTurn a s = s := by
  unfold cacheDropTurn
  split
  · rfl
  · split
    · next y hy => simp [h y hy]
    · rfl

theorem cacheDropTurn_of_clean (bytes : List Byte) (hc : s.cfg.coherent = false)
    (h : s.cache.get (s.cfg.lineOf a.toNat) = some ⟨bytes, false⟩) :
    cacheDropTurn a s = { s with cache := s.cache.drop (s.cfg.lineOf a.toNat) } := by
  simp [cacheDropTurn, hc, lineAt, h]

theorem cacheFillTurn_of_invalid (hc : s.cfg.coherent = false) (h : s.cache.get (s.cfg.lineOf a.toNat) = none) :
    cacheFillTurn a s = { s with
      cache := s.cache.put (s.cfg.lineOf a.toNat) ⟨lineBytes s.cfg s.mem (s.cfg.lineOf a.toNat), false⟩ } := by
  simp [cacheFillTurn, hc, Store.fill, lineAt, h, State.withStore]

theorem cache_turn_get_other (l : Nat) (keep : Bool) (hl : l ≠ s.cfg.lineOf a.toNat) :
    (cacheWriteBackTurn a keep s).cache.get l = s.cache.get l ∧ (cacheFillTurn a s).cache.get l = s.cache.get l ∧
      (cacheDropTurn a s).cache.get l = s.cache.get l := by
  refine ⟨?_, ?_, ?_⟩
  · unfold cacheWriteBackTurn
    split
    · rfl
    · split
      · split
        · cases keep
          · exact Cache.get_drop_other _ _ _ hl
          · exact Cache.get_put_other _ _ _ _ hl
        · rfl
      · rfl
  · unfold cacheFillTurn
    split
    · rfl
    · exact Store.fill_get_other s.cfg _ _ s.store hl
  · unfold cacheDropTurn
    split
    · rfl
    · split
      · split
        · rfl
        · exact Cache.get_drop_other _ _ _ hl
      · rfl

end

/-- Settles O23: each turn by the state of its line. -/
theorem cacheAgentSteps : Obligations.CacheAgentSteps := by
  refine ⟨fun s a hc => ⟨fun keep => by simp [cacheWriteBackTurn, hc], by simp [cacheFillTurn, hc],
    by simp [cacheDropTurn, hc]⟩, fun s a hc => ⟨fun bytes h => ?_, fun h => ?_, fun bytes h => ?_,
      fun l keep hl => cache_turn_get_other s a l keep hl⟩⟩
  · refine ⟨fun keep => by rw [cacheWriteBackTurn_of_dirty s a keep bytes hc h], ?_, ?_,
      cacheFillTurn_of_valid s a _ h, cacheDropTurn_of_not_clean s a (by simp [h])⟩
    · rw [cacheWriteBackTurn_of_dirty s a true bytes hc h]
      exact Cache.get_put_same _ _ _
    · rw [cacheWriteBackTurn_of_dirty s a false bytes hc h]
      exact Cache.get_drop_same _ _
  · refine ⟨cacheFillTurn_frame a s, ?_, fun keep => cacheWriteBackTurn_of_not_dirty s a keep (by simp [h]),
      cacheDropTurn_of_not_clean s a (by simp [h])⟩
    rw [cacheFillTurn_of_invalid s a hc h]
    exact Cache.get_put_same _ _ _
  · refine ⟨cacheDropTurn_frame a s, ?_, fun keep => cacheWriteBackTurn_of_not_dirty s a keep (by simp [h]),
      cacheFillTurn_of_valid s a _ h⟩
    rw [cacheDropTurn_of_clean s a bytes hc h]
    exact Cache.get_drop_same _ _

/-! ## One line of a Flush and of an Invalidate (R160, R162) -/

/-- Settles O34: the laws of `Store.flushLine` and `Store.invalidateLine`, on the state. -/
theorem lineOperations : Obligations.LineOperations := by
  intro s l hs hline
  have hwf := s.store_wf_of_storeOk hs
  refine ⟨rfl, Store.flushLine_get_same s.cfg l s.store, fun k hk => Store.flushLine_get_other s.cfg l k s.store hk,
    fun y hy hd => ?_, Store.flushLine_mem_clean s.cfg l s.store, rfl, Cache.get_drop_same _ _,
    fun k hk => Cache.get_drop_other _ _ _ hk⟩
  have hlen := Cache.length_of_wf _ _ _ _ (State.cache_wf_of_storeOk hs) hy
  have hmem : (s.flushLine l).mem = s.mem.writeBytes (s.cfg.toDma (BitVec.ofNat 32 l)) y.bytes :=
    Store.flushLine_mem_dirty s.cfg l s.store y hy hd
  refine ⟨fun k hk => ?_, fun b hb => ?_⟩
  · rw [hmem]
    exact Memory.read_writeBytes_same _ _ _ k (State.mem_wf_of_storeOk hs) (hlen ▸ hk) (hlen ▸ hline)
  · refine Store.flushLine_read_other s.cfg l s.store b hwf fun k hk e => hb ⟨k, hk, e⟩

/-! ## What the agents write to memory (R76, R200, R230) -/

theorem dmaWrite_read_other (s : State) (d v : Word) (b : Nat) (h : ¬ inRange (d, 4) b) :
    (s.dmaWrite d v).mem.read b = s.mem.read b :=
  Memory.read_writeWord_other _ _ _ _ _ fun k hk e => h ⟨k, hk, e⟩

theorem dmaWriteAll_read_other (s : State) (ws : List (Word × Word)) (b : Nat)
    (h : ∀ e ∈ ws, ¬ inRange (e.1, 4) b) : (s.dmaWriteAll ws).mem.read b = s.mem.read b := by
  induction ws generalizing s with
  | nil => rfl
  | cons w rest ih =>
    rw [State.dmaWriteAll, ih _ fun e he => h e (List.mem_cons_of_mem _ he)]
    exact dmaWrite_read_other s w.1 w.2 b (h w List.mem_cons_self)

theorem reservedWrites_addr {c : Config} {ptr : Word} {l : List (Nat × Word)} {e : Word × Word}
    (h : e ∈ reservedWrites c ptr l) : ∃ k, c.reservedWord k = true ∧ e.1 = descWordOf ptr k := by
  simp only [reservedWrites, List.mem_map, List.mem_filter] at h
  obtain ⟨kv, ⟨-, hk⟩, rfl⟩ := h
  exact ⟨kv.1, hk, rfl⟩

/-- A TX DMA step at any other record than Sent writes no memory. -/
theorem txDmaTurn_mem (pick : Nat) (x : Word) (reserved : List (Nat × Word)) (s : State) (h : ∀ w, s.txd ≠ .sent w) :
    (txDmaTurn pick x reserved s).mem = s.mem := by
  unfold txDmaTurn
  split
  · split
    · split
      · split <;> rfl
      · rfl
    · rfl
    · rw [txReadByte_frame]
    · next w hw => exact absurd hw (h w)
  · rfl

theorem txDmaTurn_sent (pick : Nat) (x : Word) (reserved : List (Nat × Word)) (s : State) (w : Word)
    (hen : s.txEnabled = true) (h : s.txd = .sent w) :
    txDmaTurn pick x reserved s =
      { (s.dmaWriteAll (reservedWrites s.cfg s.txHwptr reserved)).dmaWrite s.txHwptr (s.cfg.txDoneWord w x) with
        txHwptr := nextPointer s.cfg w s.mac.nptxrBadr s.txHwptr, txd := .idle } := by
  simp [txDmaTurn, hen, h]

theorem txDmaTurn_read_of_ne (pick : Nat) (x : Word) (reserved : List (Nat × Word)) (s : State) (b : Nat)
    (h : (txDmaTurn pick x reserved s).mem.read b ≠ s.mem.read b) :
    (∃ w, s.txd = .sent w) ∧
      (inRange (s.txHwptr, 4) b ∨ ∃ k, s.cfg.reservedWord k = true ∧ inRange (descWordOf s.txHwptr k, 4) b) := by
  have hsent : ∃ w, s.txd = .sent w := by
    by_contra hn
    exact h (by rw [txDmaTurn_mem _ _ _ _ fun w hw => hn ⟨w, hw⟩])
  refine ⟨hsent, ?_⟩
  obtain ⟨w, hw⟩ := hsent
  cases hen : s.txEnabled with
  | false => rw [txDmaTurn_of_disabled _ _ _ _ hen] at h; exact absurd rfl h
  | true =>
    by_contra hout
    rw [not_or] at hout
    obtain ⟨h0, hres⟩ := hout
    rw [txDmaTurn_sent _ _ _ _ w hen hw] at h
    refine h ?_
    change (State.dmaWrite _ _ _).mem.read b = _
    rw [dmaWrite_read_other _ _ _ _ h0, dmaWriteAll_read_other]
    intro e he hin
    obtain ⟨k, hk, hek⟩ := reservedWrites_addr he
    exact hres ⟨k, hk, hek ▸ hin⟩

theorem rxDmaTurn_read_of_ne (s : State) (pick b : Nat) (h : (rxDmaTurn pick s).mem.read b ≠ s.mem.read b) :
    (∃ w f d todo k, s.rxd = .addressed w f d todo ∧ k ∈ todo ∧ (s.dmaOk = true → k < f.bytes.length) ∧
      b = (d + BitVec.ofNat 32 k).toNat) ∨
    (∃ w f, s.rxd = .written w f ∧ inRange (s.rxHwptr, 4) b) := by
  unfold rxDmaTurn at h
  split at h
  · split at h
    · exact absurd rfl h
    · exact absurd rfl h
    · next w f d todo hw =>
      unfold rxWriteByte at h
      split at h
      · exact absurd rfl h
      · next k rest hk =>
        have hmem : k ∈ todo := (takePick_perm hk).mem_iff.mp List.mem_cons_self
        refine .inl ⟨w, f, d, todo, k, hw, hmem, fun hok => ?_, ?_⟩
        · have hrec := (s.dmaOk_iff.mp hok).2
          rw [hw] at hrec
          simp only [rxRecordOk, Bool.and_eq_true, List.all_eq_true, decide_eq_true_eq] at hrec
          exact hrec.2 k hmem
        · by_contra hb
          exact h (Memory.read_write_other _ _ _ _ hb)
    · next w f hw =>
      refine .inr ⟨w, f, hw, ?_⟩
      by_contra hb
      exact h (dmaWrite_read_other _ _ _ _ hb)
  · exact absurd rfl h

theorem cacheWriteBackTurn_read_of_ne (s : State) (a : Word) (keep : Bool) (b : Nat) (hs : s.storeOk = true)
    (h : (cacheWriteBackTurn a keep s).mem.read b ≠ s.mem.read b) :
    s.cfg.coherent = false ∧ (∃ bytes, s.cache.get (s.cfg.lineOf a.toNat) = some ⟨bytes, true⟩) ∧
      inRange (s.cfg.toDma (BitVec.ofNat 32 (s.cfg.lineOf a.toNat)), s.cfg.line) b := by
  have hc : s.cfg.coherent = false := by
    cases hc : s.cfg.coherent with
    | false => rfl
    | true => exact absurd (by simp [cacheWriteBackTurn, hc]) h
  have hdirty : ∃ bytes, s.cache.get (s.cfg.lineOf a.toNat) = some ⟨bytes, true⟩ := by
    by_contra hn
    have hclean : ∀ y, s.cache.get (s.cfg.lineOf a.toNat) = some y → y.dirty = false := fun y hy =>
      Bool.eq_false_iff.mpr fun hd => hn ⟨y.bytes, by rw [hy, ← hd]⟩
    exact h (by rw [cacheWriteBackTurn_of_not_dirty s a keep hclean])
  refine ⟨hc, hdirty, ?_⟩
  obtain ⟨bytes, hb⟩ := hdirty
  have hlen := Cache.length_of_wf _ _ _ _ (State.cache_wf_of_storeOk hs) hb
  by_contra hout
  rw [cacheWriteBackTurn_of_dirty s a keep bytes hc hb] at h
  exact h (Memory.read_writeBytes_other _ _ _ _ fun k hk e => hout ⟨k, hlen ▸ hk, e⟩)

/-- Settles O44: a byte that has changed has a writer, and the writers are the ones named. -/
theorem agentMemoryFrame : Obligations.AgentMemoryFrame := by
  refine ⟨fun s pick x reserved b h => txDmaTurn_read_of_ne pick x reserved s b h, rxDmaTurn_read_of_ne,
    cacheWriteBackTurn_read_of_ne, fun s f a regs p q => ⟨?_, ?_, ?_, ?_, ?_⟩⟩
  · rw [wireTurn_frame]
  · unfold macTurn
    split <;> rfl
  · rw [timerTurn_frame]
  · rw [cacheFillTurn_frame]
  · rw [cacheDropTurn_frame]

end Machine

end Sys2Proof


/-! PROOFS. The memory frame of a phase (20_memory.md R79 to R81, 41_coherency.md R160, R162): what each store operation
leaves alone, and from it what each phase leaves alone. -/

namespace Sys2Proof.Machine

/-- Memory outside the ranges `R` and the cache outside the lines `L` are as before. -/
structure Frames (s t : State) (R : List Range) (L : List Nat) : Prop where
  mem : ∀ b, (∀ e ∈ R, ¬ inRange e b) → t.mem.read b = s.mem.read b
  cache : ∀ l, l ∉ L → t.cache.get l = s.cache.get l

namespace Frames

variable {s t u : State} {R R' : List Range} {L L' : List Nat}

theorem of_store_eq (h : t.store = s.store) : Frames s t R L :=
  ⟨fun _ _ => congrArg (fun x : Store => x.mem.read _) h, fun _ _ => congrArg (fun x : Store => x.cache.get _) h⟩

theorem trans (h : Frames s t R L) (h' : Frames t u R' L') : Frames s u (R ++ R') (L ++ L') where
  mem b hb := (h'.mem b fun e he => hb e (List.mem_append_right _ he)).trans
    (h.mem b fun e he => hb e (List.mem_append_left _ he))
  cache l hl := (h'.cache l fun h => hl (List.mem_append_right _ h)).trans
    (h.cache l fun h => hl (List.mem_append_left _ h))

theorem mono (h : Frames s t R L) (hR : ∀ e ∈ R, e ∈ R') (hL : ∀ l ∈ L, l ∈ L') : Frames s t R' L' :=
  ⟨fun b hb => h.mem b fun e he => hb e (hR e he), fun l hl => h.cache l fun hm => hl (hL l hm)⟩

/-- A change of what is neither memory nor cache does not matter. -/
theorem congr_right (h : Frames s t R L) (hu : u.store = t.store) : Frames s u R L := by
  simpa using h.trans (of_store_eq (R := []) (L := []) hu)

end Frames

/-! ## The store operations -/

theorem Frames.memReadState (s : State) (a : Word) : Frames s (s.memReadState a) [] (lineTouched s.cfg a) := by
  cases hc : s.cfg.coherent with
  | true => exact .of_store_eq (Store.afterRead_coherent s.cfg a s.store hc)
  | false =>
    have hfill : s.store.afterRead s.cfg a = s.store.fill s.cfg (s.cfg.lineOf a.toNat) := by simp [Store.afterRead, hc]
    refine ⟨fun b _ => by rw [State.memReadState_mem, hfill, Store.fill_mem]; rfl, fun l hl => ?_⟩
    rw [State.memReadState_cache, hfill]
    exact Store.fill_get_other _ _ _ _ (by simpa [lineTouched, hc] using hl)

theorem Frames.memWrite (s : State) (a v : Word) :
    Frames s (s.memWrite a v) (cpuStore s.cfg a) (lineTouched s.cfg a) := by
  cases hc : s.cfg.coherent with
  | true =>
    refine ⟨fun b hb => ?_, fun l _ => by rw [State.memWrite_cache, Store.cpuWrite_cache_coherent _ _ _ _ hc]; rfl⟩
    rw [State.memWrite_mem, Store.cpuWrite_coherent _ _ _ _ hc]
    exact Memory.read_writeWord_other _ _ _ _ _ fun k hk e =>
      hb (s.cfg.toDma a, 4) (by simp [cpuStore, hc]) ⟨k, hk, e⟩
  | false =>
    refine ⟨fun b _ => by rw [State.memWrite_mem, Store.cpuWrite_mem _ _ _ _ hc]; rfl, fun l hl => ?_⟩
    exact Store.cpuWrite_get_other _ _ _ _ _ hc (by simpa [lineTouched, hc] using hl)

theorem Frames.memWriteAll (s : State) (ws : List (Word × Word)) :
    Frames s (s.memWriteAll ws) (ws.flatMap fun w => cpuStore s.cfg w.1) (ws.flatMap fun w => lineTouched s.cfg w.1) := by
  induction ws generalizing s with
  | nil => exact .of_store_eq rfl
  | cons w rest ih => exact (Frames.memWrite s w.1 w.2).trans (ih (s.memWrite w.1 w.2))

theorem Frames.markEndAt (s : State) (a : Word) :
    Frames s (s.markEndAt a) (cpuStore s.cfg a) (lineTouched s.cfg a) :=
  ((Frames.memReadState s a).trans (Frames.memWrite _ a _)).mono (fun _ h => h) fun _ h => by simpa using h

theorem Frames.invalidateLine (s : State) (l : Nat) : Frames s (s.invalidateLine l) [] [l] :=
  ⟨fun _ _ => rfl, fun k hk => Cache.get_drop_other s.cache l k (by simpa using hk)⟩

/-- A Flush stores to memory what `flushStore` says for the line that the draw picks (R160). -/
theorem Frames.flushLine (s : State) {todo rest : List Nat} {l : Nat} (hs : s.storeOk = true)
    (ht : takePick s.draw.pick todo = some (l, rest)) : Frames s (s.flushLine l) (flushStore s todo) todo := by
  have hmem : l ∈ todo := (takePick_perm ht).subset (List.mem_cons_self ..)
  refine ⟨fun b hb => ?_, fun k hk => Store.flushLine_get_other s.cfg l k s.store fun e => hk (e ▸ hmem)⟩
  cases hl : s.cache.get l with
  | none => exact congrArg (Memory.read · b) (Store.flushLine_mem_clean s.cfg l s.store (by simp [State.store, hl]))
  | some y =>
    cases hd : y.dirty with
    | false =>
      have hclean : ∀ z, s.store.cache.get l = some z → z.dirty = false := by
        simp only [State.store, hl, Option.some.injEq]
        rintro z rfl
        exact hd
      exact congrArg (Memory.read · b) (Store.flushLine_mem_clean s.cfg l s.store hclean)
    | true =>
      have hstore : flushStore s todo = [(s.cfg.toDma (BitVec.ofNat 32 l), s.cfg.line)] := by
        simp [flushStore, ht, hl, hd]
      exact Store.flushLine_read_other s.cfg l s.store b (s.store_wf_of_storeOk hs) fun k hk e =>
        hb _ (hstore ▸ List.mem_singleton_self _) ⟨k, hk, e⟩

/-! ## A phase with a Flush or an Invalidate in it -/

theorem Frames.of_flush {i : Instr} {again : List Nat → Phase} {done : State → Answer} {todo : List Nat} {s t : State}
    (hs : s.storeOk = true) (hd : ∀ u v, done u = .next v → v.store = u.store)
    (h : syncLine i State.flushLine again done todo s = .next t) : Frames s t (flushStore s todo) todo := by
  unfold syncLine at h
  split at h
  · exact .of_store_eq (hd s t h)
  · next l rest ht =>
    refine (Frames.flushLine s hs ht).congr_right ?_
    split at h
    · exact hd _ _ h
    · rw [proceed_next h]
      rfl

theorem OneLine.frames_invalidate {todo rest : List Nat} {s u : State} (h : OneLine .invalidate todo rest s u) :
    Frames s u [] todo := by
  obtain ⟨-, l, hp, rfl⟩ := h
  exact (Frames.invalidateLine s l).mono (fun _ h => h) fun k hk =>
    hp.subset (List.mem_singleton.mp hk ▸ List.mem_cons_self ..)

theorem LastLine.frames_invalidate {todo : List Nat} {s u : State} (h : LastLine .invalidate todo s u) :
    Frames s u [] todo := by
  rcases h with ⟨-, rfl⟩ | ⟨l, rfl, rfl⟩
  · exact .of_store_eq rfl
  · exact Frames.invalidateLine s l

theorem LastLine.cfg_eq {o : LineOp} {todo : List Nat} {s u : State} (h : LastLine o todo s u) : u.cfg = s.cfg := by
  obtain ⟨m, x, rfl⟩ := h.frame
  rfl

/-- The Invalidate's end and the CPU-side read of the slot after it (R182, R211). -/
theorem LastLine.frames_read {todo : List Nat} {s u : State} (h : LastLine .invalidate todo s u) (a : Word) :
    Frames s (u.memReadState a) [] (slotTouches s.cfg a todo) := by
  have hr := Frames.memReadState u a
  rw [h.cfg_eq] at hr
  exact h.frames_invalidate.trans hr

/-! ## The phases -/

theorem ringInitStep_frames (r : Ring) (p : RingPhase) (s : State) (hs : s.storeOk = true) :
    Frames s (ringInitStep r p s).1 (ringStores r p s) (ringTouches r p s) := by
  cases p with
  | i2 => exact .memWriteAll s _
  | i3 =>
    cases r with
    | tx => exact .of_store_eq rfl
    | rx => exact .memWriteAll s _
  | i4 => exact .markEndAt s _
  | i5 todo =>
    cases ht : takePick s.draw.pick todo with
    | none => exact .of_store_eq (by simp [ringInitStep, ht])
    | some e =>
      refine (Frames.flushLine s hs ht).congr_right ?_
      simp [ringInitStep, ht]
  | i6 => exact .of_store_eq (by cases r <;> rfl)

theorem ringInitStep_frames_of_eq {r : Ring} {p : RingPhase} {s u : State} {q : Option RingPhase}
    (h : ringInitStep r p s = (u, q)) (hs : s.storeOk = true) :
    Frames s u (ringStores r p s) (ringTouches r p s) := by
  have hf := ringInitStep_frames r p s hs
  rwa [h] at hf

theorem txTouches_of_txAtT1 {s : State} {todo : List Nat} (h : TxAtT1 s todo) :
    txTouches s = slotTouches s.cfg s.txSlot todo := by
  unfold txTouches
  rcases h with hp | ⟨hl, -, -, -, rfl⟩
  · rw [hp]
  · revert hl
    generalize s.phase = p
    intro hl
    cases p <;> first | rfl | cases hl

theorem rxTouches_of_rxAtP1 {s : State} {todo : List Nat} (h : RxAtP1 s todo) :
    rxTouches s = slotTouches s.cfg s.rxSlot todo := by
  unfold rxTouches
  rcases h with hp | ⟨hl, -, -, rfl⟩
  · rw [hp]
  · revert hl
    generalize s.phase = p
    intro hl
    cases p <;> first | rfl | cases hl

/-- P2's read of the buffer address and its Invalidate of the buffer (R211). -/
theorem RxAtP2.frames {s v u : State} {n : Nat} {b : Word} {todo : List Nat} (h : RxAtP2 s v n b todo)
    (hu : Frames v u [] todo) : Frames s u [] (rxTouches s) := by
  unfold rxTouches
  rcases h with ⟨hp, rfl⟩ | ⟨w, hp, rfl, rfl, rfl, rfl⟩
  · rw [hp]
    exact hu
  · rw [hp]
    exact ((Frames.memReadState s _).trans hu).mono (fun _ h => h) fun _ h => by
      simpa [slotTouches, or_comm] using h

/-- The frame of a phase, with its ranges and lines computed at the phase that the state names. -/
theorem Frames.atPhase {i : Instr} {s t : State} {p : Phase} {R : List Range} {L : List Nat} (hp : s.phase = p)
    (hR : memStores i (s.inPhase p) = R) (hL : cacheTouches i (s.inPhase p) = L) (h : Frames s t R L) :
    Frames s t (memStores i s) (cacheTouches i s) := by
  have e : s.inPhase p = s := by rw [← hp]; rfl
  rw [e] at hR hL
  rwa [hR, hL]

theorem State.storeOk_releaseWrite (s : State) (hs : s.storeOk = true) : s.releaseWrite.storeOk = true :=
  State.storeOk_memWrite _ _ _ (s.storeOk_memReadState _ hs)

theorem Frames.releaseWrite (s : State) :
    Frames s s.releaseWrite (cpuStore s.cfg s.releaseSlot) (lineTouched s.cfg s.releaseSlot) :=
  ((Frames.memReadState s _).trans (Frames.memWrite _ _ _)).mono (fun _ h => h) fun _ h => by simpa using h

/-- L2's Flush of the slot, after its read-modify-write where the command enters it now (R212). -/
theorem rxRelease_frames_L2 {s t : State} {todo : List Nat} {v : State} (h : RxAtL2 s v todo) (hs : s.storeOk = true)
    (ht : exec .rxRelease s = .next t) : Frames s t (memStores .rxRelease s) (cacheTouches .rxRelease s) := by
  have hflush {u : State} {ls : List Nat} (hu : u.storeOk = true) (he : rxL2Lines ls u = .next t) :
      Frames u t (flushStore u ls) ls :=
    Frames.of_flush hu (fun _ _ hd => by rw [proceed_next hd]; rfl) he
  rcases h with ⟨hp, rfl⟩ | ⟨hp, rfl, rfl⟩
  · exact .atPhase hp rfl rfl (hflush hs ((exec_rxRelease_rxL2Lines v todo hp).symm.trans ht))
  · refine .atPhase hp rfl (L := slotTouches s.cfg s.releaseSlot (s.cfg.syncLines s.releaseSlot s.cfg.descSize)) rfl
      (((Frames.releaseWrite s).trans
      (hflush (s.storeOk_releaseWrite hs) ((exec_rxRelease_rxL2 s hp).symm.trans ht))).mono (fun _ h => h) fun _ h => by
        simpa [slotTouches, or_comm] using h)

theorem exec_txSubmit_txT3 (s : State) (w : Word) (todo : List Nat) (hp : s.phase = .txT3 w todo) :
    exec .txSubmit s =
      syncLine .txSubmit State.flushLine (.txT3 w) (proceed .txSubmit (.txT4 w)) todo s := by
  simp only [exec, execTxSubmit, hp]

theorem exec_txSubmit_txT5 (s : State) (todo : List Nat) (hp : s.phase = .txT5 todo) :
    exec .txSubmit s = syncLine .txSubmit State.flushLine .txT5 (proceed .txSubmit .txT6) todo s := by
  simp only [exec, execTxSubmit, hp]

theorem exec_syncFlush_flushF2 (s : State) (todo : List Nat) (hp : s.phase = .flushF2 todo) :
    exec .syncFlush s = syncLine .syncFlush State.flushLine .flushF2 (finish 0 0#32) todo s := by
  simp only [exec, execSyncFlush, hp]

/-- The phases of TX_SUBMIT that flush (T3, T5). -/
theorem txSubmit_frames_flush {s t : State} {todo : List Nat} (hs : s.storeOk = true)
    (hp : (∃ w, s.phase = .txT3 w todo) ∨ s.phase = .txT5 todo) (ht : exec .txSubmit s = .next t) :
    Frames s t (memStores .txSubmit s) (cacheTouches .txSubmit s) := by
  have hd (p : Phase) (u v : State) (h : proceed .txSubmit p u = .next v) : v.store = u.store := by
    rw [proceed_next h]
    rfl
  rcases hp with ⟨w, hp⟩ | hp
  · exact .atPhase hp rfl rfl (Frames.of_flush hs (hd _) ((exec_txSubmit_txT3 s w todo hp).symm.trans ht))
  · exact .atPhase hp rfl rfl (Frames.of_flush hs (hd _) ((exec_txSubmit_txT5 s todo hp).symm.trans ht))

theorem syncFlush_frames_flush {s t : State} {todo : List Nat} (hs : s.storeOk = true) (hp : s.phase = .flushF2 todo)
    (ht : exec .syncFlush s = .next t) : Frames s t (memStores .syncFlush s) (cacheTouches .syncFlush s) :=
  .atPhase hp rfl rfl (Frames.of_flush hs (fun u v h => by rw [finish_next h]; rfl)
    ((exec_syncFlush_flushF2 s todo hp).symm.trans ht))

theorem State.stopMac_store (s : State) : s.stopMac.store = s.store := by
  rw [s.stopMac_frame]
  rfl

theorem exec_frames {i : Instr} {s t : State} (hs : s.storeOk = true) (h : exec i s = .next t) :
    Frames s t (memStores i s) (cacheTouches i s) := by
  have hnone {L : List Nat} {R : List Range} {u v : State} (hf : Frames s u [] L) (hv : v.store = u.store)
      (hL : cacheTouches i s = L) : Frames s v R (cacheTouches i s) :=
    hL ▸ (hf.congr_right hv).mono (fun _ h => absurd h List.not_mem_nil) fun _ h => h
  cases exec_cases h with
  | ringGoesOn hp hr | ringEnds hp hr | startTxRing hp hr | startTxRingEnds hp hr | startRxRing hp hr
  | startRxRingEnds hp hr =>
    exact .atPhase hp rfl rfl ((ringInitStep_frames_of_eq hr hs).congr_right rfl)
  | marked hp => exact .atPhase hp rfl rfl ((Frames.markEndAt s _).congr_right rfl)
  | flushLine hp ho | flushEnds hp ho => exact syncFlush_frames_flush hs hp h
  | invalidateLine hp ho => exact .atPhase hp rfl rfl (ho.frames_invalidate.congr_right rfl)
  | invalidateEnds hp ho => exact .atPhase hp rfl rfl (ho.frames_invalidate.congr_right rfl)
  | txT1Line ha ho =>
    exact hnone (ho.frames_invalidate.mono (fun _ h => h) fun _ h => List.mem_append_left _ h) rfl
      (txTouches_of_txAtT1 ha)
  | txNoDesc ha ho hw | txSlotFree ha ho hw => exact hnone (ho.frames_read _) rfl (txTouches_of_txAtT1 ha)
  | txAddress hp | txWord0 hp =>
    exact .atPhase hp rfl rfl ((Frames.memWrite s _ _).congr_right rfl)
  | txT3Line hp ho | txT3Ends hp ho => exact txSubmit_frames_flush hs (.inl ⟨_, hp⟩) h
  | txT5Line hp ho | txT5Ends hp ho => exact txSubmit_frames_flush hs (.inr hp) h
  | txT7Line hp ho =>
    exact .atPhase hp rfl rfl
      ((ho.frames_invalidate.mono (fun _ h => h) fun _ h => List.mem_append_left _ h).congr_right rfl)
  | txDone hp ho hw | txTimeout hp ho hw | txWaits hp ho hw =>
    exact .atPhase hp rfl rfl ((ho.frames_read _).congr_right rfl)
  | rxP1Line ha ho =>
    exact hnone (ho.frames_invalidate.mono (fun _ h => h) fun _ h => List.mem_append_left _ h) rfl
      (rxTouches_of_rxAtP1 ha)
  | rxNoPacket ha ho hw | rxPacket ha ho hw => exact hnone (ho.frames_read _) rfl (rxTouches_of_rxAtP1 ha)
  | rxP2Line ha ho => exact hnone (ha.frames ho.frames_invalidate) rfl rfl
  | rxP2Ends ha ho => exact hnone (ha.frames ho.frames_invalidate) rfl rfl
  | rxL2Line ha ho => exact rxRelease_frames_L2 ha hs h
  | rxL2Ends ha ho => exact rxRelease_frames_L2 ha hs h
  | stopMac hp => exact .of_store_eq (by rw [State.atPhase_store, s.stopMac_store])
  | _ =>
    exact .of_store_eq (by
      simp [State.store, State.linkWrite, State.startReset, State.programMac, State.programRings, State.enableMac,
        State.setMac])

/-- Settles O18: the frame of the phase that `exec` takes. -/
theorem memoryFrame : Obligations.MemoryFrame := fun _ _ _ hs h => ⟨(exec_frames hs h).mem, (exec_frames hs h).cache⟩

end Sys2Proof.Machine


/-! PROOFS. One cache line, and one word, as memory has it and as the CPU side sees it (20_memory.md R79 to R82): what each
store operation makes of them, under the identity translation. Later proofs about descriptor words use these and no bytes. -/

namespace Sys2Proof

/-- The identity translation, and lines that fit the address space: a line lies in memory at its own address. -/
structure Config.Flat (c : Config) : Prop where
  ident : c.toDmaMap = []
  line_le : c.line ≤ 2 ^ 32

theorem Config.line_dvd (c : Config) (h : c.line ≤ 2 ^ 32) : c.line ∣ 2 ^ 32 :=
  Nat.pow_dvd_pow 2 ((Nat.pow_le_pow_iff_right (by decide)).mp h)

/-- A multiple of LINE up to a number is up to that number rounded down. -/
theorem Config.le_lineOf (c : Config) {l n : Nat} (hl : l % c.line = 0) (h : l ≤ n) : l ≤ c.lineOf n := by
  obtain ⟨q, rfl⟩ := Nat.dvd_of_mod_eq_zero hl
  rw [Config.lineOf, Nat.mul_comm]
  exact Nat.mul_le_mul_right _ ((Nat.le_div_iff_mul_le c.line_pos).mpr (by rwa [Nat.mul_comm]))

/-- A line that starts in the address space ends in it. -/
theorem Config.add_line_le (c : Config) {l n : Nat} (hl : l % c.line = 0) (hn : c.line ∣ n) (h : l < n) :
    l + c.line ≤ n := by
  obtain ⟨q, rfl⟩ := Nat.dvd_of_mod_eq_zero hl
  obtain ⟨r, rfl⟩ := hn
  rw [← Nat.mul_succ]
  exact Nat.mul_le_mul_left _ (Nat.lt_of_mul_lt_mul_left h)

/-- Two lines that share an address are one. -/
theorem Config.line_unique (c : Config) {l k n : Nat} (hl : l % c.line = 0) (hk : k % c.line = 0)
    (h1 : l ≤ n) (h2 : n < l + c.line) (h3 : k ≤ n) (h4 : n < k + c.line) : l = k := by
  have := c.le_lineOf hl h1
  have := c.le_lineOf hk h3
  obtain ⟨q, rfl⟩ := Nat.dvd_of_mod_eq_zero hl
  obtain ⟨r, rfl⟩ := Nat.dvd_of_mod_eq_zero hk
  have hq : q < r + 1 := Nat.lt_of_mul_lt_mul_left (a := c.line) (by rw [Nat.mul_succ]; omega)
  have hr : r < q + 1 := Nat.lt_of_mul_lt_mul_left (a := c.line) (by rw [Nat.mul_succ]; omega)
  rw [Nat.le_antisymm (Nat.le_of_lt_succ hq) (Nat.le_of_lt_succ hr)]

theorem Config.lineOf_eq_of_within (c : Config) {l n : Nat} (hl : l % c.line = 0) (h1 : l ≤ n) (h2 : n < l + c.line) :
    c.lineOf n = l :=
  c.line_unique (c.lineOf_mod n) hl (c.lineOf_le n) (c.lt_lineOf_add n) h1 h2

namespace Machine

/-! ## Bytes of a line in memory -/

theorem toNat_line_add {c : Config} (hf : c.Flat) {l k : Nat} (hl : l % c.line = 0) (hb : l < 2 ^ 32) (hk : k < c.line) :
    (c.toDma (BitVec.ofNat 32 l) + BitVec.ofNat 32 k).toNat = l + k := by
  have := c.add_line_le hl (c.line_dvd hf.line_le) hb
  rw [Config.toDma_id _ _ hf.ident, BitVec.toNat_add, BitVec.toNat_ofNat, BitVec.toNat_ofNat]
  omega

theorem lineBytes_getD {c : Config} (hf : c.Flat) (m : Memory) {l k : Nat} (hl : l % c.line = 0) (hb : l < 2 ^ 32)
    (hk : k < c.line) : (lineBytes c m l).getD k 0#8 = m.read (l + k) := by
  rw [List.getD, lineBytes, Memory.readBytes_getElem? _ _ _ _ hk, toNat_line_add hf hl hb hk, Option.getD_some]

theorem lineBytes_congr {c : Config} (hf : c.Flat) (m m' : Memory) {l : Nat} (hl : l % c.line = 0) (hb : l < 2 ^ 32)
    (h : ∀ k, k < c.line → m'.read (l + k) = m.read (l + k)) : lineBytes c m' l = lineBytes c m l := by
  refine List.ext_getElem (by simp) fun k hk hk' => ?_
  rw [lineBytes_length] at hk
  have hget (n : Memory) (hn : k < (lineBytes c n l).length) : (lineBytes c n l)[k] = n.read (l + k) := by
    rw [← lineBytes_getD hf n hl hb hk, List.getD, List.getElem?_eq_getElem hn, Option.getD_some]
  rw [hget, hget, h k hk]

/-! ## A line from both sides -/

/-- A line as memory has it, and the copy that a CPU-side access of it uses. -/
structure Side where
  mem : List Byte
  copy : CacheLine

/-- The copy that a CPU-side access uses: the Valid line, or memory's bytes, clean (R80). -/
def Store.copyAt (c : Config) (x : Store) (l : Nat) : CacheLine :=
  (x.cache.get l).getD ⟨lineBytes c x.mem l, false⟩

def Store.side (c : Config) (x : Store) (l : Nat) : Side := ⟨lineBytes c x.mem l, x.copyAt c l⟩

/-- A Flush of the line (R160). -/
def Side.flush (p : Side) : Side :=
  if p.copy.dirty then ⟨p.copy.bytes, ⟨p.copy.bytes, false⟩⟩ else ⟨p.mem, ⟨p.mem, false⟩⟩

/-- An Invalidate of the line (R162). -/
def Side.drop (p : Side) : Side := ⟨p.mem, ⟨p.mem, false⟩⟩

theorem Store.copyAt_of_none {c : Config} {x : Store} {l : Nat} (h : x.cache.get l = none) :
    x.copyAt c l = ⟨lineBytes c x.mem l, false⟩ := by
  rw [Store.copyAt, h, Option.getD_none]

theorem Store.copyAt_of_some {c : Config} {x : Store} {l : Nat} {y : CacheLine} (h : x.cache.get l = some y) :
    x.copyAt c l = y := by
  rw [Store.copyAt, h, Option.getD_some]

theorem Store.side_eq_of {c : Config} {x y : Store} {l : Nat} (hm : lineBytes c y.mem l = lineBytes c x.mem l)
    (hc : y.cache.get l = x.cache.get l) : y.side c l = x.side c l := by
  rw [Store.side, Store.side, Store.copyAt, Store.copyAt, hm, hc]

theorem Store.side_of_none {c : Config} {x : Store} {l : Nat} (h : x.cache.get l = none) :
    x.side c l = (x.side c l).drop := by
  rw [Store.side, Store.copyAt_of_none h]
  rfl

theorem Store.side_fill (c : Config) (x : Store) (l k : Nat) : (x.fill c l).side c k = x.side c k := by
  by_cases h : k = l
  · subst h
    rw [Store.side, Store.fill_mem, Store.copyAt, Store.fill_get_same]
    rfl
  · exact Store.side_eq_of (by rw [Store.fill_mem]) (Store.fill_get_other c l k x h)

theorem Store.side_afterRead (c : Config) (a : Word) (x : Store) (k : Nat) : (x.afterRead c a).side c k = x.side c k := by
  unfold Store.afterRead
  split
  · rfl
  · exact x.side_fill c _ k

theorem Store.side_invalidateLine_same (c : Config) (l : Nat) (x : Store) :
    (x.invalidateLine l).side c l = (x.side c l).drop :=
  Store.side_of_none (Cache.get_drop_same x.cache l)

theorem Store.side_invalidateLine_other (c : Config) (l k : Nat) (x : Store) (h : k ≠ l) :
    (x.invalidateLine l).side c k = x.side c k := Store.side_eq_of rfl (Cache.get_drop_other x.cache l k h)

theorem Store.copyAt_length {c : Config} {x : Store} (hx : x.wf c = true) (l : Nat) :
    (x.copyAt c l).bytes.length = c.line := Store.filled_length c l x hx

theorem Store.flushLine_mem_eq (c : Config) (x : Store) (l : Nat) :
    (x.flushLine c l).mem =
      if (x.copyAt c l).dirty then x.mem.writeBytes (c.toDma (BitVec.ofNat 32 l)) (x.copyAt c l).bytes else x.mem := by
  cases h : x.cache.get l with
  | none => rw [Store.copyAt_of_none h, Store.flushLine, h]; rfl
  | some y => rw [Store.copyAt_of_some h, Store.flushLine, h]

section
variable {c : Config} {x : Store} (hf : c.Flat) (hx : x.wf c = true)
include hf hx

/-- The bytes of a line written to memory where it lies. -/
theorem lineBytes_writeBytes_same {l : Nat} (hl : l % c.line = 0) (hb : l < 2 ^ 32) {bs : List Byte}
    (hlen : bs.length = c.line) :
    lineBytes c (x.mem.writeBytes (c.toDma (BitVec.ofNat 32 l)) bs) l = bs := by
  refine List.ext_getElem (by simp [hlen]) fun k hk hk' => ?_
  have hkl : k < c.line := hlen ▸ hk'
  have hget : (lineBytes c (x.mem.writeBytes (c.toDma (BitVec.ofNat 32 l)) bs) l).getD k 0#8 = bs.getD k 0#8 := by
    rw [lineBytes_getD hf _ hl hb hkl, ← toNat_line_add hf hl hb hkl]
    exact Memory.read_writeBytes_same _ _ _ _ ((Store.wf_iff c x).mp hx).1 hk' (hlen ▸ hf.line_le)
  simpa [List.getD, List.getElem?_eq_getElem hk, List.getElem?_eq_getElem hk'] using hget

theorem Store.side_flushLine_same {l : Nat} (hl : l % c.line = 0) (hb : l < 2 ^ 32) :
    (x.flushLine c l).side c l = (x.side c l).flush := by
  rw [Store.side_of_none (Store.flushLine_get_same c l x), Side.drop, Side.flush]
  change Side.mk (lineBytes c (x.flushLine c l).mem l) ⟨lineBytes c (x.flushLine c l).mem l, false⟩ =
    if (x.copyAt c l).dirty then _ else _
  rw [Store.flushLine_mem_eq]
  split
  · rw [lineBytes_writeBytes_same hf hx hl hb (Store.copyAt_length hx l)]
    rfl
  · rfl

theorem Store.flushLine_read_of_other {l n : Nat} (hl : l % c.line = 0) (hb : l < 2 ^ 32) (hn : c.lineOf n ≠ l) :
    (x.flushLine c l).mem.read n = x.mem.read n := by
  refine Store.flushLine_read_other c l x n hx fun k hk e => hn ?_
  rw [e, toNat_line_add hf hl hb hk]
  exact c.lineOf_eq_of_within hl (Nat.le_add_right l k) (Nat.add_lt_add_left hk l)

theorem Store.side_flushLine_other {l k : Nat} (hl : l % c.line = 0) (hb : l < 2 ^ 32) (hk : k % c.line = 0)
    (hkb : k < 2 ^ 32) (h : k ≠ l) : (x.flushLine c l).side c k = x.side c k := by
  refine Store.side_eq_of (lineBytes_congr hf _ _ hk hkb fun j hj => ?_) (Store.flushLine_get_other c l k x h)
  refine Store.flushLine_read_of_other hf hx hl hb ?_
  rwa [c.lineOf_eq_of_within hk (Nat.le_add_right k j) (Nat.add_lt_add_left hj k)]

end

/-! ## A word from both sides -/

/-- A word as memory has it, as the CPU side sees it, and whether its line is dirty. -/
structure Cell where
  ram : Word
  view : Word
  dirty : Bool

/-- The word at an address, in the bytes of its line. -/
def wordIn (c : Config) (a : Word) (bs : List Byte) : Word := bytesWord c.endian (bs.drop (a.toNat - c.lineOf a.toNat))

def Side.cell (c : Config) (a : Word) (p : Side) : Cell :=
  ⟨wordIn c a p.mem, wordIn c a p.copy.bytes, p.copy.dirty⟩

def Store.cell (c : Config) (a : Word) (x : Store) : Cell := (x.side c (c.lineOf a.toNat)).cell c a

/-- A word that memory and the CPU side agree on, in a line that is not dirty. -/
def Cell.clean (v : Word) : Cell := ⟨v, v, false⟩

/-- A Flush of the word's line. -/
def Cell.flush (p : Cell) : Cell := if p.dirty then .clean p.view else .clean p.ram

/-- Another word of the line is written. -/
def Cell.soil (p : Cell) : Cell := { p with dirty := true }

theorem Side.cell_flush (c : Config) (a : Word) (p : Side) : p.flush.cell c a = (p.cell c a).flush := by
  unfold Side.flush Cell.flush Side.cell Cell.clean
  split <;> rfl

theorem Side.cell_drop (c : Config) (a : Word) (p : Side) : p.drop.cell c a = .clean (p.cell c a).ram := rfl

theorem Cell.flush_clean (v : Word) : (Cell.clean v).flush = .clean v := rfl

theorem Store.cell_dirty (c : Config) (a : Word) (x : Store) :
    (x.cell c a).dirty = (x.copyAt c (c.lineOf a.toNat)).dirty := rfl

theorem readWord_eq_wordIn {c : Config} (hf : c.Flat) (m : Memory) (a : Word) (ha : a.toNat % 4 = 0) :
    m.readWord c.endian (c.toDma a) = wordIn c a (lineBytes c m (c.lineOf a.toNat)) := by
  have hle := c.lineOf_le a.toNat
  have hw := c.word_within_line a.toNat ha
  refine bytesWord_congr _ _ _ fun k hk => ?_
  rw [Config.toDma_id _ _ hf.ident, List.getD, Memory.readBytes_getElem? _ _ _ _ hk, Option.getD_some,
    toNat_add_of_aligned a k ha hk]
  have hk' : a.toNat - c.lineOf a.toNat + k < c.line := by omega
  have hget := lineBytes_getD hf m (c.lineOf_mod a.toNat) (c.lineOf_lt a) hk'
  rw [show c.lineOf a.toNat + (a.toNat - c.lineOf a.toNat + k) = a.toNat + k by omega] at hget
  rw [← hget]
  simp [List.getD]

theorem Store.cell_ram {c : Config} (hf : c.Flat) (x : Store) (a : Word) (ha : a.toNat % 4 = 0) :
    (x.cell c a).ram = x.mem.readWord c.endian (c.toDma a) := (readWord_eq_wordIn hf x.mem a ha).symm

/-- Memory and cache are canonical, and there is no cache when DMA is coherent. -/
structure Store.Ok (c : Config) (x : Store) : Prop where
  wf : x.wf c = true
  empty : c.coherent = true → x.cache = []

theorem State.store_ok {s : State} (h : s.storeOk = true) : s.store.Ok s.cfg :=
  ⟨(s.storeOk_iff.mp h).1, (s.storeOk_iff.mp h).2⟩

theorem Store.copyAt_coherent {c : Config} {x : Store} (hx : x.Ok c) (h : c.coherent = true) (l : Nat) :
    x.copyAt c l = ⟨lineBytes c x.mem l, false⟩ := Store.copyAt_of_none (by rw [hx.empty h]; rfl)

theorem Store.cell_coherent {c : Config} {x : Store} (hx : x.Ok c) (h : c.coherent = true) (a : Word) :
    x.cell c a = .clean (x.cell c a).ram := by
  rw [Store.cell, Store.side, Store.copyAt_coherent hx h]
  rfl

theorem Store.cell_view {c : Config} (hf : c.Flat) {x : Store} (hx : x.Ok c) (a : Word) (ha : a.toNat % 4 = 0) :
    (x.cell c a).view = x.cpuWord c a := by
  cases h : c.coherent with
  | true =>
    rw [Store.cell_coherent hx h, Store.cpuWord, h, if_pos rfl, ← x.cell_ram hf a ha]
    rfl
  | false => exact (Store.cpuWord_eq c a x h).symm

/-! ### The CPU side -/

theorem Store.cell_afterRead (c : Config) (a b : Word) (x : Store) : (x.afterRead c b).cell c a = x.cell c a := by
  rw [Store.cell, Store.side_afterRead]
  rfl

section
variable {c : Config} (hf : c.Flat) {x : Store} (hx : x.Ok c)
include hf hx

theorem Store.cell_flushLine_same (a : Word) :
    (x.flushLine c (c.lineOf a.toNat)).cell c a = (x.cell c a).flush := by
  rw [Store.cell, Store.side_flushLine_same hf hx.wf (c.lineOf_mod _) (c.lineOf_lt a), Side.cell_flush]
  rfl

theorem Store.cell_flushLine_other (a : Word) {l : Nat} (hl : l % c.line = 0) (hb : l < 2 ^ 32)
    (h : c.lineOf a.toNat ≠ l) : (x.flushLine c l).cell c a = x.cell c a := by
  rw [Store.cell, Store.side_flushLine_other hf hx.wf hl hb (c.lineOf_mod _) (c.lineOf_lt a) h]
  rfl

/-- A word written by the CPU side (R79, R81). -/
theorem Store.cell_cpuWrite_same (a v : Word) (ha : a.toNat % 4 = 0) :
    (x.cpuWrite c a v).cell c a = if c.coherent then .clean v else ⟨(x.cell c a).ram, v, true⟩ := by
  cases h : c.coherent with
  | true =>
    have hy : (x.cpuWrite c a v).Ok c :=
      ⟨Store.wf_cpuWrite c a v x hx.wf, fun hc => (Store.cpuWrite_cache_coherent c a v x hc).trans (hx.empty hc)⟩
    rw [Store.cell_coherent hy h, Store.cell_ram hf _ a ha, Store.cpuWrite_coherent c a v x h,
      Memory.readWord_writeWord _ _ _ _ ((Store.wf_iff c x).mp hx.wf).1]
    rfl
  | false =>
    have hcopy := Store.copyAt_of_some (c := c) (Store.cpuWrite_get_same c a v x h)
    rw [Store.cell, Store.side, hcopy, Store.cpuWrite_mem c a v x h]
    have hword := bytesWord_drop_setBytes c.endian (x.copyAt c (c.lineOf a.toNat)).bytes
      (a.toNat - c.lineOf a.toNat) v
      (by rw [Store.copyAt_length hx.wf]; exact c.word_within_line _ ha)
    exact congrArg (Cell.mk _ · true) hword

/-- A word next to one that the CPU side writes: untouched, but for the dirty flag of a line they share. -/
theorem Store.cell_cpuWrite_other (a b v : Word) (ha : a.toNat % 4 = 0) (hb : b.toNat % 4 = 0) (hab : a ≠ b) :
    (x.cpuWrite c b v).cell c a =
      if c.coherent = false ∧ c.lineOf a.toNat = c.lineOf b.toNat then (x.cell c a).soil else x.cell c a := by
  have hne : a.toNat ≠ b.toNat := fun e => hab (BitVec.toNat_inj.mp e)
  cases h : c.coherent with
  | true =>
    have hy : (x.cpuWrite c b v).Ok c :=
      ⟨Store.wf_cpuWrite c b v x hx.wf, fun hc => (Store.cpuWrite_cache_coherent c b v x hc).trans (hx.empty hc)⟩
    rw [if_neg (by simp), Store.cell_coherent hy h, Store.cell_coherent hx h, Store.cell_ram hf _ a ha,
      Store.cell_ram hf _ a ha, Store.cpuWrite_coherent c b v x h, Config.toDma_id _ _ hf.ident,
      Config.toDma_id _ _ hf.ident]
    refine congrArg Cell.clean (Memory.readWord_congr _ _ _ _ fun k hk => ?_)
    refine Memory.read_writeWord_other _ _ _ _ _ fun j hj => ?_
    rw [toNat_add_of_aligned a k ha hk, toNat_add_of_aligned b j hb hj]
    omega
  | false =>
    by_cases hline : c.lineOf a.toNat = c.lineOf b.toNat
    · rw [if_pos ⟨rfl, hline⟩]
      have hcopy := Store.copyAt_of_some (c := c) (Store.cpuWrite_get_same c b v x h)
      rw [Store.cell, Store.side, hline, hcopy, Store.cpuWrite_mem c b v x h, Store.cell, Store.side, hline]
      refine congrArg (Cell.mk _ · true) (bytesWord_congr _ _ _ fun k hk => ?_)
      have hleA := c.lineOf_le a.toNat
      have hleB := c.lineOf_le b.toNat
      have hother := setBytes_getD_other (x.copyAt c (c.lineOf b.toNat)).bytes (b.toNat - c.lineOf b.toNat)
        (wordBytes c.endian v) (a.toNat - c.lineOf a.toNat + k) (by rw [wordBytes_length]; omega)
      simpa [List.getD, List.getElem?_drop, Store.copyAt] using hother
    · rw [if_neg (fun hc => hline hc.2)]
      have hside : (x.cpuWrite c b v).side c (c.lineOf a.toNat) = x.side c (c.lineOf a.toNat) :=
        Store.side_eq_of (by rw [Store.cpuWrite_mem c b v x h]) (Store.cpuWrite_get_other c b v _ x h hline)
      rw [Store.cell, hside]
      rfl

end

theorem Store.cell_invalidateLine_same (c : Config) (a : Word) (x : Store) :
    (x.invalidateLine (c.lineOf a.toNat)).cell c a = .clean (x.cell c a).ram := by
  rw [Store.cell, Store.side_invalidateLine_same, Side.cell_drop]
  rfl

theorem Store.cell_invalidateLine_other (c : Config) (a : Word) (x : Store) {l : Nat} (h : c.lineOf a.toNat ≠ l) :
    (x.invalidateLine l).cell c a = x.cell c a := by
  rw [Store.cell, Store.side_invalidateLine_other c l _ x h]
  rfl

/-! ### The DMA side -/

/-- Memory changes under the cache (R82): the CPU side goes on seeing the copy that it has. -/
theorem Store.cell_mem {c : Config} (hf : c.Flat) (x : Store) (m : Memory) (a : Word) (ha : a.toNat % 4 = 0) :
    (x.cache.get (c.lineOf a.toNat) = none ∧ x.cell c a = .clean (x.cell c a).ram ∧
      Store.cell c a ⟨m, x.cache⟩ = .clean (m.readWord c.endian (c.toDma a))) ∨
    Store.cell c a ⟨m, x.cache⟩ = { x.cell c a with ram := m.readWord c.endian (c.toDma a) } := by
  rw [readWord_eq_wordIn hf m a ha]
  cases h : x.cache.get (c.lineOf a.toNat) with
  | none =>
    refine .inl ⟨rfl, ?_, ?_⟩
    · rw [Store.cell, Store.side_of_none h]
      rfl
    · rw [Store.cell, Store.side_of_none (x := ⟨m, x.cache⟩) h]
      rfl
  | some y =>
    refine .inr ?_
    rw [Store.cell, Store.cell, Store.side, Store.side, Store.copyAt_of_some (x := ⟨m, x.cache⟩) h,
      Store.copyAt_of_some h]
    rfl

theorem Store.cell_mem_same {c : Config} (hf : c.Flat) (x : Store) (m : Memory) (a : Word) (ha : a.toNat % 4 = 0)
    (h : ∀ k, k < 4 → m.read (a.toNat + k) = x.mem.read (a.toNat + k)) : Store.cell c a ⟨m, x.cache⟩ = x.cell c a := by
  have hr : m.readWord c.endian (c.toDma a) = (x.cell c a).ram := by
    rw [x.cell_ram hf a ha, Config.toDma_id _ _ hf.ident]
    refine Memory.readWord_congr _ _ _ _ fun k hk => ?_
    rw [toNat_add_of_aligned a k ha hk]
    exact h k hk
  rcases x.cell_mem hf m a ha with ⟨-, h1, h2⟩ | h2
  · rw [h2, hr, ← h1]
  · rw [h2, hr]

end Machine

end Sys2Proof


/-! PROOFS. The launch premises as facts about addresses and lines (70_reset_and_hazards.md R326): where the words of a
ring lie, and that the rings and the RX buffers share no line. -/

namespace Sys2Proof

/-! ## Line sets -/

/-- The lines of a ring. -/
def Config.linesOfRing (c : Config) (r : Ring) : List Nat := c.lines (c.base r).toNat (c.cap r * c.descSize)

theorem Config.mem_bothRings (c : Config) (l : Nat) : l ∈ c.bothRings ↔ ∃ r, l ∈ c.linesOfRing r := by
  rw [Config.bothRings, List.mem_append]
  exact ⟨fun h => h.elim (fun h => ⟨.tx, h⟩) fun h => ⟨.rx, h⟩, fun ⟨r, h⟩ => by cases r; exacts [.inl h, .inr h]⟩

theorem Config.lines_mod {c : Config} {a n l : Nat} (h : l ∈ c.lines a n) : l % c.line = 0 := by
  rcases Nat.eq_zero_or_pos n with rfl | hn
  · simp [Config.lines] at h
  · exact ((c.mem_lines_iff a n l hn).mp h).1

/-- The line of an address of a range is one of the range's lines. -/
theorem Config.lineOf_mem_lines (c : Config) {a n x : Nat} (h1 : a ≤ x) (h2 : x < a + n) : c.lineOf x ∈ c.lines a n := by
  have := c.lineOf_le x
  have := c.lt_lineOf_add x
  exact (c.mem_lines_iff a n _ (by omega)).mpr ⟨c.lineOf_mod x, by omega, by omega⟩

/-- The lines of a part of a range are lines of the range. -/
theorem Config.lines_subset (c : Config) {a n b m l : Nat} (h1 : a ≤ b) (h2 : b + m ≤ a + n) (h : l ∈ c.lines b m) :
    l ∈ c.lines a n := by
  rcases Nat.eq_zero_or_pos m with rfl | hm
  · simp [Config.lines] at h
  · obtain ⟨hl, h3, h4⟩ := (c.mem_lines_iff b m l hm).mp h
    exact (c.mem_lines_iff a n l (by omega)).mpr ⟨hl, by omega, by omega⟩

theorem Config.lines_lt {c : Config} {a n l : Nat} (ha : a + n ≤ 2 ^ 32) (h : l ∈ c.lines a n) : l < 2 ^ 32 := by
  rcases Nat.eq_zero_or_pos n with rfl | hn
  · simp [Config.lines] at h
  · have := ((c.mem_lines_iff a n l hn).mp h).2.1
    omega

/-- A range rounded out to lines holds the range's lines whole (R326 (c)). -/
theorem Config.lines_in_rounded {c : Config} {e : Extent} {l : Nat} (h : l ∈ c.lines e.start e.size) :
    (e.rounded c).start ≤ l ∧ l + c.line ≤ (e.rounded c).start + (e.rounded c).size := by
  rcases Nat.eq_zero_or_pos e.size with hn | hn
  · simp [Config.lines, hn] at h
  obtain ⟨hl, h1, h2⟩ := (c.mem_lines_iff _ _ l hn).mp h
  have hpos := c.line_pos
  have hlow : c.lineOf e.start ≤ l := by
    by_contra hlt
    have := c.add_line_le hl (Nat.dvd_of_mod_eq_zero (c.lineOf_mod e.start)) (Nat.lt_of_not_le hlt)
    have := c.lineOf_le e.start
    omega
  have hmod : (l + c.line) % c.line = 0 := by rw [Nat.add_mod_right, hl]
  have hhigh : l + c.line ≤ c.lineOf (e.start + e.size + c.line - 1) := c.le_lineOf hmod (by omega)
  refine ⟨hlow, ?_⟩
  simp only [Extent.rounded]
  omega

theorem Extent.no_common_line {c : Config} {d e : Extent} {l : Nat} (h : (d.rounded c).apart (e.rounded c) = true)
    (hd : l ∈ c.lines d.start d.size) : l ∉ c.lines e.start e.size := by
  intro he
  have h1 := Config.lines_in_rounded hd
  have h2 := Config.lines_in_rounded he
  have := c.line_pos
  simp only [Extent.apart, Bool.or_eq_true, decide_eq_true_eq] at h
  omega

/-! ## The launch premises -/

/-- R326 in words of lines: what the proofs use of the launch premises. -/
structure Config.Launched (c : Config) : Prop where
  wf : c.wellFormed = true
  align : c.descAlign = 16
  fits : c.layoutFits = true
  bufCount : c.rxBuf.length = c.rxCap
  ringsApart : ∀ l, l ∈ c.linesOfRing .tx → l ∉ c.linesOfRing .rx
  bufsApart : ∀ r l, l ∈ c.linesOfRing r → l ∉ c.rxBufLines
  ringEnd : ∀ r, (c.base r).toNat + c.cap r * c.descSize ≤ 2 ^ 32
  bufEnd : ∀ b ∈ c.rxBuf, b.toNat + c.rxBufSize ≤ 2 ^ 32
  lineLe : c.line ≤ 2 ^ 32
  bufLen : c.rxBufSize ≤ c.lenMax
  returns : ∀ b ∈ c.rxBuf, c.fromDma (c.toDma b) = b

theorem Config.descSize_eq {c : Config} (h : c.wellFormed = true) :
    c.descSize = 4 * c.descWords ∧ c.bufWord < c.descWords := by
  obtain ⟨-, -, -, hsize, hbuf, -⟩ := (Machine.Config.wellFormed_iff c).mp h
  exact ⟨hsize, hbuf⟩

/-- A range whose lines end in the address space ends there itself. -/
theorem Extent.end_le {c : Config} {e : Extent} {n : Nat} (hpos : 0 < e.size)
    (h : (e.rounded c).start + (e.rounded c).size ≤ n) : e.start + e.size ≤ n := by
  have hlast := Config.lines_in_rounded (c := c) (e := e)
    (c.lineOf_mem_lines (x := e.start + e.size - 1) (by omega) (by omega))
  have := c.lt_lineOf_add (e.start + e.size - 1)
  omega

theorem Config.ring_size_pos {c : Config} (h : c.wellFormed = true) (r : Ring) : 0 < c.cap r * c.descSize := by
  obtain ⟨hsize, hbuf⟩ := Config.descSize_eq h
  exact Nat.mul_pos (capacityOk_bounds (c.ring_of_wellFormed r h).1).1 (by omega)

theorem Config.launched_of_launchOk {c : Config} (h : c.launchOk = true) : c.Launched := by
  simp only [Config.launchOk, Config.extents, List.map_cons, allApart, List.all_cons, List.all_map, Bool.and_eq_true,
    decide_eq_true_eq, List.all_eq_true, Function.comp_apply, beq_iff_eq, and_assoc] at h
  obtain ⟨hwf, hal, hfits, hcount, hrings, htxBufs, hrxBufs, -, htxEnd, hrxEnd, hbufEnd, -, -, hbufPos, hlen, hret, -⟩ := h
  have hpos := Config.ring_size_pos hwf
  have htxFirst : c.lineOf c.txBase.toNat ∈ c.lines c.txBase.toNat (c.txCap * c.descSize) :=
    c.lineOf_mem_lines le_rfl (Nat.lt_add_of_pos_right (hpos .tx))
  refine ⟨hwf, hal, hfits, hcount, fun l hl => Extent.no_common_line hrings hl, fun r l hl hb => ?_, fun r => ?_,
    fun b hb => Extent.end_le (by exact hbufPos) (hbufEnd b hb), ?_, hlen, hret⟩
  · obtain ⟨b, hb, hlb⟩ := List.mem_flatMap.mp hb
    cases r with
    | tx => exact Extent.no_common_line (htxBufs b hb) hl hlb
    | rx => exact Extent.no_common_line (hrxBufs b hb) hl hlb
  · cases r with
    | tx => exact Extent.end_le (hpos .tx) htxEnd
    | rx => exact Extent.end_le (hpos .rx) hrxEnd
  · have := Config.lines_in_rounded (e := ⟨c.txBase.toNat, c.txCap * c.descSize⟩) htxFirst
    omega

/-! ## The words of a ring -/

theorem Config.slot_end_le (c : Config) (r : Ring) {i : Nat} (hi : i < c.cap r) :
    (c.base r).toNat + i * c.descSize + c.descSize ≤ (c.base r).toNat + c.cap r * c.descSize := by
  have := Nat.mul_le_mul_right c.descSize (Nat.succ_le_of_lt hi)
  rw [Nat.succ_mul] at this
  omega

theorem Config.Launched.bufWord_ne_zero {c : Config} (h : c.Launched) : c.bufWord ≠ 0 := by
  have hfits := h.fits
  simp only [Config.layoutFits, Bool.and_eq_true, decide_eq_true_eq, and_assoc] at hfits
  exact hfits.1

theorem Config.Launched.bufWord_lt {c : Config} (h : c.Launched) : c.bufWord < c.descWords := (Config.descSize_eq h.wf).2

section
variable {c : Config} (h : c.Launched)
include h

theorem Config.Launched.flat (hid : c.toDmaMap = []) : c.Flat := ⟨hid, h.lineLe⟩

theorem Config.Launched.toNat_slot (r : Ring) {i : Nat} (hi : i < c.cap r) :
    (c.slot r i).toNat = (c.base r).toNat + i * c.descSize := by
  have := c.slot_end_le r hi
  have := h.ringEnd r
  obtain ⟨hsize, hbuf⟩ := Config.descSize_eq h.wf
  rw [Config.slot, BitVec.toNat_add, BitVec.toNat_ofNat]
  omega

theorem Config.Launched.toNat_wordAddr (r : Ring) {i k : Nat} (hi : i < c.cap r) (hk : k < c.descWords) :
    (c.wordAddr r i k).toNat = (c.base r).toNat + i * c.descSize + 4 * k := by
  have := c.slot_end_le r hi
  have := h.ringEnd r
  obtain ⟨hsize, hbuf⟩ := Config.descSize_eq h.wf
  rw [Config.wordAddr, BitVec.toNat_add, h.toNat_slot r hi, BitVec.toNat_ofNat]
  omega

theorem Config.Launched.words_pos : 0 < c.descWords := Nat.zero_lt_of_lt (Config.descSize_eq h.wf).2

theorem Config.Launched.wordAddr_aligned (r : Ring) {i k : Nat} (hi : i < c.cap r) (hk : k < c.descWords) :
    (c.wordAddr r i k).toNat % 4 = 0 := by
  have hslot := c.slot_aligned r i h.wf h.align
  rw [h.toNat_slot r hi] at hslot
  rw [h.toNat_wordAddr r hi hk]
  omega

/-- A word lies in a line of its slot. -/
theorem Config.Launched.lineOf_mem_slot (r : Ring) {i k : Nat} (hi : i < c.cap r) (hk : k < c.descWords) :
    c.lineOf (c.wordAddr r i k).toNat ∈ c.lines (c.slot r i).toNat c.descSize := by
  obtain ⟨hsize, -⟩ := Config.descSize_eq h.wf
  rw [h.toNat_wordAddr r hi hk, h.toNat_slot r hi]
  exact c.lineOf_mem_lines (by omega) (by omega)

/-- The lines of a slot are lines of its ring. -/
theorem Config.Launched.slot_lines_subset (r : Ring) {i l : Nat} (hi : i < c.cap r)
    (hl : l ∈ c.lines (c.slot r i).toNat c.descSize) : l ∈ c.linesOfRing r := by
  have := c.slot_end_le r hi
  rw [h.toNat_slot r hi] at hl
  exact c.lines_subset (by omega) (by omega) hl

theorem Config.Launched.lineOf_mem_ring (r : Ring) {i k : Nat} (hi : i < c.cap r) (hk : k < c.descWords) :
    c.lineOf (c.wordAddr r i k).toNat ∈ c.linesOfRing r := h.slot_lines_subset r hi (h.lineOf_mem_slot r hi hk)

theorem Config.Launched.ring_lines_disjoint {r q : Ring} (hrq : r ≠ q) {l : Nat} (hl : l ∈ c.linesOfRing r) :
    l ∉ c.linesOfRing q := by
  cases r <;> cases q
  · exact absurd rfl hrq
  · exact h.ringsApart l hl
  · exact fun hm => h.ringsApart l hm hl
  · exact absurd rfl hrq

/-- Different words of the rings have different addresses. -/
theorem Config.Launched.wordAddr_inj {r q : Ring} {i j k m : Nat} (hi : i < c.cap r) (hj : j < c.cap q)
    (hk : k < c.descWords) (hm : m < c.descWords) (he : c.wordAddr r i k = c.wordAddr q j m) : r = q ∧ i = j ∧ k = m := by
  have hr : r = q := by
    by_contra hne
    exact h.ring_lines_disjoint hne (h.lineOf_mem_ring r hi hk) (he ▸ h.lineOf_mem_ring q hj hm)
  subst hr
  have hnat := congrArg BitVec.toNat he
  rw [h.toNat_wordAddr r hi hk, h.toNat_wordAddr r hj hm] at hnat
  obtain ⟨hsize, -⟩ := Config.descSize_eq h.wf
  have hij : i = j := by
    rcases Nat.lt_trichotomy i j with hlt | heq | hlt
    · have := Nat.mul_le_mul_right c.descSize (Nat.succ_le_of_lt hlt)
      rw [Nat.succ_mul] at this
      omega
    · exact heq
    · have := Nat.mul_le_mul_right c.descSize (Nat.succ_le_of_lt hlt)
      rw [Nat.succ_mul] at this
      omega
  subst hij
  exact ⟨rfl, rfl, by omega⟩

theorem Config.Launched.rxBufAt_mem {i : Nat} (hi : i < c.rxCap) : c.rxBufAt i ∈ c.rxBuf := by
  have hi' : i < c.rxBuf.length := h.bufCount ▸ hi
  rw [Config.rxBufAt, List.getD, List.getElem?_eq_getElem hi', Option.getD_some]
  exact List.getElem_mem hi'

theorem Config.Launched.ring_lines_lt (r : Ring) {l : Nat} (hl : l ∈ c.linesOfRing r) : l < 2 ^ 32 :=
  Config.lines_lt (h.ringEnd r) hl

end

theorem Config.ringPtr_eq (c : Config) (hid : c.toDmaMap = []) (r : Ring) (i : Nat) : c.ringPtr r i = c.slot r i := by
  rw [Config.ringPtr, Machine.Config.toDma_id _ _ hid]
  rfl

end Sys2Proof


/-! PROOFS. A command run with no other agent between its phases, and a Flush or an Invalidate of a whole range
(41_coherency.md R160, R162). -/

namespace Sys2Proof.Machine

/-! ## Every line of a list -/

/-- One line of a Flush or an Invalidate, on memory and cache. -/
def LineOp.store (o : LineOp) (c : Config) (x : Store) (l : Nat) : Store :=
  match o with
  | .flush => x.flushLine c l
  | .invalidate => x.invalidateLine l

/-- The lines of a list, one after another. -/
def LineOp.all (o : LineOp) (c : Config) (ls : List Nat) (x : Store) : Store := ls.foldl (o.store c) x

theorem LineOp.act_eq (o : LineOp) (s : State) (l : Nat) : o.act s l = s.withStore (o.store s.cfg s.store l) := by
  cases o <;> rfl

theorem LineOp.get_store_same (o : LineOp) (c : Config) (x : Store) (l : Nat) : (o.store c x l).cache.get l = none := by
  cases o
  · exact Store.flushLine_get_same c l x
  · exact Cache.get_drop_same x.cache l

theorem LineOp.get_store_other (o : LineOp) (c : Config) (x : Store) {l k : Nat} (h : k ≠ l) :
    (o.store c x l).cache.get k = x.cache.get k := by
  cases o
  · exact Store.flushLine_get_other c l k x h
  · exact Cache.get_drop_other x.cache l k h

theorem LineOp.get_all (o : LineOp) (c : Config) (ls : List Nat) (x : Store) (k : Nat) :
    (o.all c ls x).cache.get k = if k ∈ ls then none else x.cache.get k := by
  induction ls generalizing x with
  | nil => rfl
  | cons l rest ih =>
    rw [LineOp.all, List.foldl_cons]
    refine (ih _).trans ?_
    by_cases hk : k = l
    · subst hk
      rw [o.get_store_same]
      simp
    · rw [o.get_store_other c x hk]
      simp [hk]

theorem LineOp.mem_all_invalidate (c : Config) (ls : List Nat) (x : Store) :
    (LineOp.invalidate.all c ls x).mem = x.mem := by
  induction ls generalizing x with
  | nil => rfl
  | cons l rest ih => exact ih _

theorem Store.Ok.lineOp {c : Config} {x : Store} (hx : x.Ok c) (o : LineOp) (l : Nat) : (o.store c x l).Ok c := by
  cases o with
  | flush => exact ⟨Store.wf_flushLine c l x hx.wf, fun hc => Store.flushLine_cache_empty c l x (hx.empty hc)⟩
  | invalidate =>
    refine ⟨Store.wf_invalidateLine c l x hx.wf, fun hc => ?_⟩
    change x.cache.drop l = []
    rw [hx.empty hc]
    rfl

theorem Store.Ok.all {c : Config} {x : Store} (hx : x.Ok c) (o : LineOp) (ls : List Nat) : (o.all c ls x).Ok c := by
  induction ls generalizing x with
  | nil => exact hx
  | cons l rest ih => exact ih (hx.lineOp o l)

theorem Side.flush_flush (p : Side) : p.flush.flush = p.flush := by
  unfold Side.flush
  split <;> rfl

section
variable {c : Config} (hf : c.Flat) {ls : List Nat} (hls : ∀ l ∈ ls, l % c.line = 0 ∧ l < 2 ^ 32)
include hf hls

theorem side_flush_all {x : Store} (hx : x.Ok c) {k : Nat} (hk : k % c.line = 0) (hkb : k < 2 ^ 32) :
    (LineOp.flush.all c ls x).side c k = if k ∈ ls then (x.side c k).flush else x.side c k := by
  induction ls generalizing x with
  | nil => rfl
  | cons l rest ih =>
    obtain ⟨hl, hb⟩ := hls l (List.mem_cons_self ..)
    refine (ih (fun m hm => hls m (List.mem_cons_of_mem _ hm)) (hx.lineOp .flush l)).trans ?_
    by_cases hkl : k = l
    · subst hkl
      have hside : (LineOp.flush.store c x k).side c k = (x.side c k).flush := Store.side_flushLine_same hf hx.wf hl hb
      rw [hside, Side.flush_flush, ite_self, if_pos (List.mem_cons_self ..)]
    · have hside : (LineOp.flush.store c x l).side c k = x.side c k :=
        Store.side_flushLine_other hf hx.wf hl hb hk hkb hkl
      rw [hside]
      simp [hkl]

theorem cell_flush_all {x : Store} (hx : x.Ok c) (a : Word) :
    (LineOp.flush.all c ls x).cell c a = if c.lineOf a.toNat ∈ ls then (x.cell c a).flush else x.cell c a := by
  rw [Store.cell, side_flush_all hf hls hx (c.lineOf_mod _) (c.lineOf_lt a)]
  split
  · exact Side.cell_flush c a _
  · rfl

/-- A byte of memory is a byte of its line. -/
theorem read_flush_all {x : Store} (hx : x.Ok c) (a : Word) :
    (LineOp.flush.all c ls x).mem.read a.toNat =
      if c.lineOf a.toNat ∈ ls then (x.side c (c.lineOf a.toNat)).flush.mem.getD (a.toNat - c.lineOf a.toNat) 0#8
      else x.mem.read a.toNat := by
  have hle := c.lineOf_le a.toNat
  have hlt := c.lt_lineOf_add a.toNat
  have hread (m : Memory) :
      m.read a.toNat = (lineBytes c m (c.lineOf a.toNat)).getD (a.toNat - c.lineOf a.toNat) 0#8 := by
    rw [lineBytes_getD hf m (c.lineOf_mod _) (c.lineOf_lt a) (by omega)]
    congr 1
    omega
  have hside := side_flush_all hf hls hx (c.lineOf_mod a.toNat) (c.lineOf_lt a)
  rw [hread, show lineBytes c (LineOp.flush.all c ls x).mem (c.lineOf a.toNat) = _ from congrArg Side.mem hside, hread]
  split <;> rfl

end

theorem State.flushedByte_eq {s : State} (hf : s.cfg.Flat) (a : Word) :
    s.flushedByte a =
      (s.store.side s.cfg (s.cfg.lineOf a.toNat)).flush.mem.getD (a.toNat - s.cfg.lineOf a.toNat) 0#8 := by
  have hle := s.cfg.lineOf_le a.toNat
  have hlt := s.cfg.lt_lineOf_add a.toNat
  have hread : s.mem.read a.toNat =
      (lineBytes s.cfg s.mem (s.cfg.lineOf a.toNat)).getD (a.toNat - s.cfg.lineOf a.toNat) 0#8 := by
    rw [lineBytes_getD hf s.mem (s.cfg.lineOf_mod _) (s.cfg.lineOf_lt a) (by omega)]
    congr 1
    omega
  cases h : s.cache.get (s.cfg.lineOf a.toNat) with
  | none =>
    rw [Store.side, Store.copyAt_of_none (x := s.store) h, State.flushedByte, h]
    exact hread
  | some y =>
    rw [Store.side, Store.copyAt_of_some (x := s.store) h, State.flushedByte, h, Side.flush]
    cases hd : y.dirty with
    | true => simp [hd]
    | false => simpa [hd] using hread

/-! ## A command run alone -/

/-- The command run alone from `s` goes through `t`, or does from `s` what it does from `t`. -/
def Reaches (i : Instr) (s t : State) : Prop := ∃ n, ∀ k, runAlone i (n + k + 1) s = runAlone i (k + 1) t

theorem Reaches.refl (i : Instr) (s : State) : Reaches i s s := ⟨0, fun k => by rw [Nat.zero_add]⟩

theorem Reaches.trans {i : Instr} {s t u : State} (h : Reaches i s t) (h' : Reaches i t u) : Reaches i s u := by
  obtain ⟨n, hn⟩ := h
  obtain ⟨m, hm⟩ := h'
  exact ⟨n + m, fun k => by rw [Nat.add_assoc n m k, hn, hm]⟩

theorem Reaches.of_exec {i : Instr} {s t : State} (he : exec i s = .next t) (ht : t.op = some i) : Reaches i s t :=
  ⟨1, fun k => by rw [Nat.add_comm 1 k]; exact runAlone_of_goes_on he ht⟩

theorem Reaches.of_same_exec {i : Instr} {s t : State} (he : exec i s = exec i t) : Reaches i s t :=
  ⟨0, fun k => by rw [Nat.zero_add, runAlone, runAlone, he]⟩

theorem Reaches.lands {i : Instr} {s t u : State} (h : Reaches i s t) (he : exec i t = .next u) :
    ∃ n, runAlone i n s = .next u := by
  obtain ⟨n, hn⟩ := h
  refine ⟨n + 0 + 1, ?_⟩
  rw [hn 0, runAlone, he]
  exact ite_self _

/-- A state placed at a phase of a command. -/
def State.placed (s : State) (o : Option Instr) (b : Bool) (p : Phase) : State := { s with op := o, busy := b, phase := p }

theorem linesLeft_again {i : Instr} {p : Phase} {o : LineOp} {todo : List Nat} {again : List Nat → Phase}
    (h : linesLeft i p = some (o, todo, again)) : p = again todo ∧ ∀ ls, linesLeft i (again ls) = some (o, ls, again) := by
  unfold linesLeft at h
  split at h <;> cases h <;> exact ⟨rfl, fun _ => rfl⟩

/-- A Flush or an Invalidate runs through all its lines, in the order the draw gives. -/
theorem reaches_lines {i : Instr} {o : LineOp} {again : List Nat → Phase} (todo : List Nat) (s : State)
    (h : linesLeft i s.phase = some (o, todo, again)) :
    ∃ ls op b, ls.Perm todo ∧ Reaches i s ((s.withStore (o.all s.cfg ls s.store)).placed op b (again [])) := by
  obtain ⟨hp, hagain⟩ := linesLeft_again h
  induction hn : todo.length generalizing todo s with
  | zero =>
    obtain rfl := List.length_eq_zero_iff.mp hn
    refine ⟨[], s.op, s.busy, .refl _, ?_⟩
    rw [← hp]
    exact .refl i s
  | succ n ih =>
    obtain ⟨y, ys, rfl⟩ := List.exists_cons_of_length_eq_add_one hn
    obtain ⟨x, rest, ht, hperm, -⟩ := takePick_cons s.draw.pick y ys
    have he := exec_of_taken h ht
    by_cases hr : rest = []
    · subst hr
      rw [if_pos rfl] at he
      refine ⟨[x], s.op, s.busy, hperm, .of_same_exec (he.trans ?_)⟩
      rw [o.act_eq]
      rfl
    · rw [if_neg hr] at he
      obtain ⟨ls, op, b, hls, hrun⟩ := ih rest ((o.act s x).atPhase i (again rest)) (hagain rest) rfl
        (by simpa using hperm.length_eq.trans hn)
      refine ⟨x :: ls, op, b, (hls.cons x).trans hperm, (Reaches.of_exec he rfl).trans ?_⟩
      rw [o.act_eq] at hrun
      rw [o.act_eq]
      exact hrun

/-! ## SYNC_FLUSH and SYNC_INVALIDATE (R163, R164) -/

theorem exec_syncFlush_nil (s : State) (hp : s.phase = .flushF2 []) :
    exec .syncFlush s = .next (s.endCommand .ok 0 0#32) := exec_syncFlush_flushF2 s [] hp

theorem exec_syncInvalidate_nil (s : State) (hp : s.phase = .invalidateV2 []) :
    exec .syncInvalidate s = .next (s.endCommand .ok 0 0#32) := by
  simp only [exec, execSyncInvalidate, hp]
  rfl

theorem syncFlush_alone (s : State) (hp : s.phase = .first) (hc : s.cfg.coherent = false)
    (hr : s.arg0.toNat + s.arg1.toNat ≤ 2 ^ 32) :
    ∃ ls n, ls.Perm (s.cfg.lines s.arg0.toNat s.arg1.toNat) ∧
      runAlone .syncFlush n s = .next ((s.withStore (LineOp.flush.all s.cfg ls s.store)).endCommand .ok 0 0#32) := by
  have he := exec_syncFlush_first s hp
  rw [if_neg (Nat.not_lt.mpr hr), Config.syncLines_not_coherent _ _ _ hc] at he
  obtain ⟨ls, op, b, hls, hrun⟩ := reaches_lines (i := .syncFlush) (s.cfg.lines s.arg0.toNat s.arg1.toNat)
    (s.atPhase .syncFlush (.flushF2 (s.cfg.lines s.arg0.toNat s.arg1.toNat))) rfl
  obtain ⟨n, hn⟩ := ((Reaches.of_exec he rfl).trans hrun).lands (exec_syncFlush_nil _ rfl)
  exact ⟨ls, n, hls, hn⟩

theorem syncInvalidate_alone (s : State) (hp : s.phase = .first) (hc : s.cfg.coherent = false)
    (hr : s.arg0.toNat + s.arg1.toNat ≤ 2 ^ 32) :
    ∃ ls n, ls.Perm (s.cfg.lines s.arg0.toNat s.arg1.toNat) ∧ runAlone .syncInvalidate n s =
      .next ((s.withStore (LineOp.invalidate.all s.cfg ls s.store)).endCommand .ok 0 0#32) := by
  have he := exec_syncInvalidate_first s hp
  rw [if_neg (Nat.not_lt.mpr hr), Config.syncLines_not_coherent _ _ _ hc] at he
  obtain ⟨ls, op, b, hls, hrun⟩ := reaches_lines (i := .syncInvalidate) (s.cfg.lines s.arg0.toNat s.arg1.toNat)
    (s.atPhase .syncInvalidate (.invalidateV2 (s.cfg.lines s.arg0.toNat s.arg1.toNat))) rfl
  obtain ⟨n, hn⟩ := ((Reaches.of_exec he rfl).trans hrun).lands (exec_syncInvalidate_nil _ rfl)
  exact ⟨ls, n, hls, hn⟩

/-- Settles O35: each command as its first phase and a run through the lines of the range. -/
theorem syncAlone : Obligations.SyncAlone := by
  refine ⟨fun s hp hs hc hid hline hr => ?_, fun s hp hc hr => ?_⟩
  · obtain ⟨ls, n, hls, hn⟩ := syncFlush_alone s hp hc hr
    have hf : s.cfg.Flat := ⟨hid, hline⟩
    have hlines : ∀ l ∈ ls, l % s.cfg.line = 0 ∧ l < 2 ^ 32 := fun l hl =>
      ⟨Config.lines_mod (hls.mem_iff.mp hl), Config.lines_lt hr (hls.mem_iff.mp hl)⟩
    have hget := LineOp.flush.get_all s.cfg ls s.store
    have hread := read_flush_all hf hlines (State.store_ok hs)
    refine ⟨n, _, hn, rfl, fun l hl => ?_, fun l hl => ?_, fun x hx => ?_, fun x hx => ?_⟩
    · exact (hget l).trans (if_pos (hls.mem_iff.mpr hl))
    · exact (hget l).trans (if_neg fun h => hl (hls.mem_iff.mp h))
    · exact ((hread x).trans (if_pos (hls.mem_iff.mpr hx))).trans (s.flushedByte_eq hf x).symm
    · exact (hread x).trans (if_neg fun h => hx (hls.mem_iff.mp h))
  · obtain ⟨ls, n, hls, hn⟩ := syncInvalidate_alone s hp hc hr
    have hget := LineOp.invalidate.get_all s.cfg ls s.store
    refine ⟨n, _, hn, ?_, fun l hl => ?_, fun l hl => ?_⟩
    · have hmem := LineOp.mem_all_invalidate s.cfg ls s.store
      simp only [State.withStore, State.endCommand, hmem]
      rfl
    · exact (hget l).trans (if_pos (hls.mem_iff.mpr hl))
    · exact (hget l).trans (if_neg fun h => hl (hls.mem_iff.mp h))

end Sys2Proof.Machine


/-! PROOFS. RING_INIT with no other agent between its phases (40_ring.md R141): every word of the ring as the rule gives it,
in memory, and nothing changed outside the ring's lines. -/

namespace Sys2Proof.Machine

/-! ## What changes inside a set of lines only -/

/-- Every line outside `L` is as before, in memory and in the cache. -/
structure Store.Outside (c : Config) (L : List Nat) (x y : Store) : Prop where
  side : ∀ k, k % c.line = 0 → k < 2 ^ 32 → k ∉ L → y.side c k = x.side c k
  get : ∀ k, k ∉ L → y.cache.get k = x.cache.get k

namespace Store.Outside

variable {c : Config} {L : List Nat} {x y z : Store}

theorem refl (c : Config) (L : List Nat) (x : Store) : Store.Outside c L x x := ⟨fun _ _ _ _ => rfl, fun _ _ => rfl⟩

theorem trans (h : Store.Outside c L x y) (h' : Store.Outside c L y z) : Store.Outside c L x z :=
  ⟨fun k hk hb hL => (h'.side k hk hb hL).trans (h.side k hk hb hL), fun k hL => (h'.get k hL).trans (h.get k hL)⟩

theorem mono {K : List Nat} (h : Store.Outside c K x y) (hK : ∀ k ∈ K, k ∈ L) : Store.Outside c L x y :=
  ⟨fun k hk hb hL => h.side k hk hb fun hm => hL (hK k hm), fun k hL => h.get k fun hm => hL (hK k hm)⟩

theorem cell (h : Store.Outside c L x y) (a : Word) (ha : c.lineOf a.toNat ∉ L) : y.cell c a = x.cell c a := by
  rw [Store.cell, h.side _ (c.lineOf_mod _) (c.lineOf_lt a) ha]
  rfl

theorem read (hf : c.Flat) (h : Store.Outside c L x y) (a : Word) (ha : c.lineOf a.toNat ∉ L) :
    y.mem.read a.toNat = x.mem.read a.toNat := by
  have hle := c.lineOf_le a.toNat
  have hlt := c.lt_lineOf_add a.toNat
  have hbyte (m : Memory) :
      m.read a.toNat = (lineBytes c m (c.lineOf a.toNat)).getD (a.toNat - c.lineOf a.toNat) 0#8 := by
    rw [lineBytes_getD hf m (c.lineOf_mod _) (c.lineOf_lt a) (by omega)]
    congr 1
    omega
  have hmem := congrArg Side.mem (h.side _ (c.lineOf_mod _) (c.lineOf_lt a) ha)
  rw [hbyte, hbyte, show lineBytes c y.mem _ = lineBytes c x.mem _ from hmem]

theorem afterRead (x : Store) (a : Word) (ha : c.lineOf a.toNat ∈ L) : Store.Outside c L x (x.afterRead c a) := by
  refine ⟨fun k _ _ _ => x.side_afterRead c a k, fun k hk => ?_⟩
  unfold Store.afterRead
  split
  · rfl
  · exact Store.fill_get_other c _ k x fun e => hk (e ▸ ha)

theorem cpuWrite (hf : c.Flat) (x : Store) (a v : Word) (hal : a.toNat % 4 = 0) (ha : c.lineOf a.toNat ∈ L) :
    Store.Outside c L x (x.cpuWrite c a v) := by
  have hget (k : Nat) (hk : k ∉ L) : (x.cpuWrite c a v).cache.get k = x.cache.get k := by
    cases hc : c.coherent with
    | true => rw [Store.cpuWrite_cache_coherent c a v x hc]
    | false => exact Store.cpuWrite_get_other c a v k x hc fun e => hk (e ▸ ha)
  refine ⟨fun k hk hb hL => Store.side_eq_of ?_ (hget k hL), hget⟩
  cases hc : c.coherent with
  | false => rw [Store.cpuWrite_mem c a v x hc]
  | true =>
    rw [Store.cpuWrite_coherent c a v x hc]
    refine lineBytes_congr hf _ _ hk hb fun j hj => Memory.read_writeWord_other _ _ _ _ _ fun m hm e => hL ?_
    rw [Config.toDma_id _ _ hf.ident, toNat_add_of_aligned a m hal hm] at e
    rwa [← Config.lineOf_add_of_aligned c a.toNat m hal hm, ← e,
      c.lineOf_eq_of_within hk (Nat.le_add_right k j) (Nat.add_lt_add_left hj k)] at ha

theorem cpuWriteAll (hf : c.Flat) (x : Store) (ws : List (Word × Word))
    (hws : ∀ w ∈ ws, w.1.toNat % 4 = 0 ∧ c.lineOf w.1.toNat ∈ L) : Store.Outside c L x (x.cpuWriteAll c ws) := by
  induction ws generalizing x with
  | nil => exact refl c L x
  | cons w rest ih =>
    obtain ⟨hal, hl⟩ := hws w (List.mem_cons_self ..)
    exact (cpuWrite hf x w.1 w.2 hal hl).trans (ih _ fun u hu => hws u (List.mem_cons_of_mem _ hu))

theorem flush (hf : c.Flat) (hx : x.Ok c) (ls : List Nat)
    (hls : ∀ l ∈ ls, l % c.line = 0 ∧ l < 2 ^ 32 ∧ l ∈ L) : Store.Outside c L x (LineOp.flush.all c ls x) := by
  refine ⟨fun k hk hb hL => ?_, fun k hL => (LineOp.flush.get_all c ls x k).trans (if_neg fun h => hL (hls k h).2.2)⟩
  exact (side_flush_all hf (fun l hl => ⟨(hls l hl).1, (hls l hl).2.1⟩) hx hk hb).trans (if_neg fun h => hL (hls k h).2.2)

theorem invalidate (x : Store) (ls : List Nat) (hls : ∀ l ∈ ls, l ∈ L) :
    Store.Outside c L x (LineOp.invalidate.all c ls x) := by
  have hget (k : Nat) (hL : k ∉ L) : (LineOp.invalidate.all c ls x).cache.get k = x.cache.get k :=
    (LineOp.invalidate.get_all c ls x k).trans (if_neg fun h => hL (hls k h))
  exact ⟨fun k _ _ hL => Store.side_eq_of (by rw [LineOp.mem_all_invalidate]) (hget k hL), hget⟩

end Store.Outside

/-! ## A word that software has written -/

/-- The CPU side sees the value, and memory has it as soon as the line is flushed. -/
structure Cell.Holds (p : Cell) (v : Word) : Prop where
  view : p.view = v
  ram : p.dirty = false → p.ram = v

theorem Cell.Holds.flush {p : Cell} {v : Word} (h : p.Holds v) : p.flush = .clean v := by
  unfold Cell.flush
  cases hd : p.dirty with
  | true => rw [if_pos rfl, h.view]
  | false => rw [if_neg (by simp), h.ram hd]

theorem Cell.Holds.soil {p : Cell} {v : Word} (h : p.Holds v) : p.soil.Holds v := ⟨h.view, fun hd => by cases hd⟩

theorem Cell.holds_clean (v : Word) : (Cell.clean v).Holds v := ⟨rfl, fun _ => rfl⟩

section
variable {c : Config} (hf : c.Flat) {x : Store} (hx : x.Ok c)

theorem Store.Ok.cpuWrite {c : Config} {x : Store} (hx : x.Ok c) (a v : Word) : (x.cpuWrite c a v).Ok c :=
  ⟨Store.wf_cpuWrite c a v x hx.wf, fun hc => (Store.cpuWrite_cache_coherent c a v x hc).trans (hx.empty hc)⟩

theorem Store.Ok.afterRead {c : Config} {x : Store} (hx : x.Ok c) (a : Word) : (x.afterRead c a).Ok c :=
  ⟨Store.wf_afterRead c a x hx.wf, fun hc => (Store.afterRead_cache_coherent c a x hc).trans (hx.empty hc)⟩

theorem Store.Ok.cpuWriteAll {c : Config} {x : Store} (hx : x.Ok c) (ws : List (Word × Word)) :
    (x.cpuWriteAll c ws).Ok c := by
  induction ws generalizing x with
  | nil => exact hx
  | cons w rest ih => exact ih (hx.cpuWrite w.1 w.2)

include hf hx

theorem holds_cpuWrite_same (a v : Word) (ha : a.toNat % 4 = 0) : ((x.cpuWrite c a v).cell c a).Holds v := by
  rw [Store.cell_cpuWrite_same hf hx a v ha]
  split
  · exact Cell.holds_clean v
  · exact ⟨rfl, fun hd => by cases hd⟩

theorem holds_cpuWrite_other (a b v w : Word) (ha : a.toNat % 4 = 0) (hb : b.toNat % 4 = 0) (hab : a ≠ b)
    (h : (x.cell c a).Holds w) : ((x.cpuWrite c b v).cell c a).Holds w := by
  rw [Store.cell_cpuWrite_other hf hx a b v ha hb hab]
  split
  · exact h.soil
  · exact h

/-- After a list of writes a word holds the value that the list gives it. -/
theorem holds_cpuWriteAll (ws : List (Word × Word)) (a v : Word) (ha : a.toNat % 4 = 0)
    (hws : ∀ w ∈ ws, w.1.toNat % 4 = 0) (hv : ∀ w ∈ ws, w.1 = a → w.2 = v)
    (h : (x.cell c a).Holds v ∨ ∃ w ∈ ws, w.1 = a) : ((x.cpuWriteAll c ws).cell c a).Holds v := by
  induction ws generalizing x with
  | nil => exact h.resolve_right (by simp)
  | cons w rest ih =>
    refine ih (hx.cpuWrite w.1 w.2) (fun u hu => hws u (List.mem_cons_of_mem _ hu))
      (fun u hu => hv u (List.mem_cons_of_mem _ hu)) ?_
    by_cases hw : w.1 = a
    · left
      rw [← hv w (List.mem_cons_self ..) hw, ← hw]
      exact holds_cpuWrite_same hf hx _ _ (hws w (List.mem_cons_self ..))
    · rcases h with h | ⟨u, hu, hua⟩
      · exact .inl (holds_cpuWrite_other hf hx _ _ _ _ ha (hws w (List.mem_cons_self ..)) (Ne.symm hw) h)
      · rcases List.mem_cons.mp hu with rfl | hu
        · exact absurd hua hw
        · exact .inr ⟨u, hu, hua⟩

end

/-! ## The writes of RING_INIT (R141 I2 to I4) -/

/-- I4's read-modify-write on memory and cache. -/
def Store.markEnd (c : Config) (a : Word) (x : Store) : Store :=
  (x.afterRead c a).cpuWrite c a (c.markWord (x.cpuWord c a))

/-- I3 on memory and cache. -/
def Store.armRing (c : Config) (r : Ring) (x : Store) : Store :=
  match r with
  | .tx => x
  | .rx => x.cpuWriteAll c c.armWrites

/-- I2 to I4 on memory and cache. -/
def Store.ringWritten (c : Config) (r : Ring) (x : Store) : Store :=
  ((x.cpuWriteAll c (c.zeroWrites r)).armRing c r).markEnd c (c.endWord r)

theorem mem_zeroWrites {c : Config} {r : Ring} {w : Word × Word} :
    w ∈ c.zeroWrites r ↔ ∃ i k, i < c.cap r ∧ k < c.descWords ∧ w = (c.wordAddr r i k, 0#32) := by
  simp only [Config.zeroWrites, Config.ringWords, List.mem_map, List.mem_flatMap, List.mem_range]
  constructor
  · rintro ⟨a, ⟨i, hi, k, hk, rfl⟩, rfl⟩
    exact ⟨i, k, hi, hk, rfl⟩
  · rintro ⟨i, k, hi, hk, rfl⟩
    exact ⟨_, ⟨i, hi, k, hk, rfl⟩, rfl⟩

theorem mem_armWrites {c : Config} {w : Word × Word} :
    w ∈ c.armWrites ↔ ∃ i, i < c.rxCap ∧ w = (c.wordAddr .rx i c.bufWord, c.toDma (c.rxBufAt i)) := by
  simp only [Config.armWrites, List.mem_map, List.mem_range]
  exact ⟨fun ⟨i, hi, h⟩ => ⟨i, hi, h.symm⟩, fun ⟨i, hi, h⟩ => ⟨i, hi, h.symm⟩⟩

section
variable {c : Config} (h : c.Launched) (hf : c.Flat) {x : Store} (hx : x.Ok c)

/-- Word `k` of slot `i` after I3: the buffer address or 0. -/
def armedWord (c : Config) (r : Ring) (i k : Nat) : Word :=
  if r = .rx ∧ k = c.bufWord then c.toDma (c.rxBufAt i) else 0#32

theorem initWord_eq_armedWord {c : Config} {r : Ring} {i k : Nat} (hn : ¬(k = 0 ∧ i + 1 = c.cap r))
    (hb : c.bufWord ≠ 0) : initWord c r i k = armedWord c r i k := by
  unfold initWord armedWord
  by_cases hk : k = 0
  · rw [if_pos hk, if_neg (fun he => hn ⟨hk, he⟩), if_neg (by rintro ⟨-, rfl⟩; exact hb hk)]
  · rw [if_neg hk]

include h hf hx

theorem holds_zeroed (r : Ring) {i k : Nat} (hi : i < c.cap r) (hk : k < c.descWords) :
    ((x.cpuWriteAll c (c.zeroWrites r)).cell c (c.wordAddr r i k)).Holds 0#32 := by
  refine holds_cpuWriteAll hf hx _ _ _ (h.wordAddr_aligned r hi hk) (fun w hw => ?_) (fun w hw _ => ?_)
    (.inr ⟨_, mem_zeroWrites.mpr ⟨i, k, hi, hk, rfl⟩, rfl⟩)
  · obtain ⟨j, m, hj, hm, rfl⟩ := mem_zeroWrites.mp hw
    exact h.wordAddr_aligned r hj hm
  · obtain ⟨j, m, hj, hm, rfl⟩ := mem_zeroWrites.mp hw
    rfl

theorem holds_armed (r : Ring) {i k : Nat} (hi : i < c.cap r) (hk : k < c.descWords) :
    (((x.cpuWriteAll c (c.zeroWrites r)).armRing c r).cell c (c.wordAddr r i k)).Holds (armedWord c r i k) := by
  have hzero := holds_zeroed h hf hx r hi hk
  cases r with
  | tx => exact hzero
  | rx =>
    refine holds_cpuWriteAll hf (hx.cpuWriteAll _) _ _ _ (h.wordAddr_aligned .rx hi hk) (fun w hw => ?_)
      (fun w hw he => ?_) ?_
    · obtain ⟨j, hj, rfl⟩ := mem_armWrites.mp hw
      exact h.wordAddr_aligned .rx hj h.bufWord_lt
    · obtain ⟨j, hj, rfl⟩ := mem_armWrites.mp hw
      obtain ⟨-, rfl, rfl⟩ := h.wordAddr_inj hj hi h.bufWord_lt hk he
      exact (if_pos ⟨rfl, rfl⟩).symm
    · by_cases hb : k = c.bufWord
      · subst hb
        exact .inr ⟨_, mem_armWrites.mpr ⟨i, hi, rfl⟩, rfl⟩
      · left
        rwa [armedWord, if_neg (fun hn => hb hn.2)]

theorem holds_ringWritten (r : Ring) {i k : Nat} (hi : i < c.cap r) (hk : k < c.descWords) :
    ((x.ringWritten c r).cell c (c.wordAddr r i k)).Holds (initWord c r i k) := by
  have hcap := (capacityOk_bounds (c.ring_of_wellFormed r h.wf).1).1
  have hlast : c.cap r - 1 < c.cap r := by omega
  have hy : ((x.cpuWriteAll c (c.zeroWrites r)).armRing c r).Ok c := by
    cases r with
    | tx => exact hx.cpuWriteAll _
    | rx => exact (hx.cpuWriteAll _).cpuWriteAll _
  have hend := holds_armed h hf hx r hlast h.words_pos
  have halign := h.wordAddr_aligned r hlast h.words_pos
  unfold Store.ringWritten Store.markEnd
  by_cases he : k = 0 ∧ i + 1 = c.cap r
  · obtain ⟨rfl, he⟩ := he
    obtain rfl : i = c.cap r - 1 := by omega
    have hview := hend.view
    rw [Store.cell_view hf hy _ halign, armedWord, if_neg (fun hn => h.bufWord_ne_zero hn.2.symm)] at hview
    have hword : initWord c r (c.cap r - 1) 0 = c.markWord 0#32 := by
      rw [initWord, if_pos rfl, if_pos he, Config.markWord, BitVec.zero_or]
    rw [Config.endWord, hview, hword]
    exact holds_cpuWrite_same hf (hy.afterRead _) _ _ halign
  · rw [initWord_eq_armedWord he h.bufWord_ne_zero]
    refine holds_cpuWrite_other hf (hy.afterRead _) _ _ _ _ (h.wordAddr_aligned r hi hk) halign (fun hn => he ?_) ?_
    · obtain ⟨-, rfl, rfl⟩ := h.wordAddr_inj hi hlast hk h.words_pos hn
      exact ⟨rfl, by omega⟩
    · rw [Store.cell_afterRead]
      exact holds_armed h hf hx r hi hk

omit hx in
theorem outside_ringWritten (r : Ring) (x : Store) : Store.Outside c (c.linesOfRing r) x (x.ringWritten c r) := by
  have hcap := (capacityOk_bounds (c.ring_of_wellFormed r h.wf).1).1
  have hword {i k : Nat} (hi : i < c.cap r) (hk : k < c.descWords) :
      (c.wordAddr r i k).toNat % 4 = 0 ∧ c.lineOf (c.wordAddr r i k).toNat ∈ c.linesOfRing r :=
    ⟨h.wordAddr_aligned r hi hk, h.lineOf_mem_ring r hi hk⟩
  have hzero : Store.Outside c (c.linesOfRing r) x (x.cpuWriteAll c (c.zeroWrites r)) :=
    .cpuWriteAll hf x _ fun w hw => by
      obtain ⟨i, k, hi, hk, rfl⟩ := mem_zeroWrites.mp hw
      exact hword hi hk
  have harm (y : Store) : Store.Outside c (c.linesOfRing r) y (y.armRing c r) := by
    cases r with
    | tx => exact .refl ..
    | rx =>
      refine .cpuWriteAll hf y _ fun w hw => ?_
      obtain ⟨i, hi, rfl⟩ := mem_armWrites.mp hw
      exact hword hi h.bufWord_lt
  have hend := hword (show c.cap r - 1 < c.cap r by omega) h.words_pos
  exact (hzero.trans (harm _)).trans ((Store.Outside.afterRead _ _ hend.2).trans (.cpuWrite hf _ _ _ hend.1 hend.2))

end

/-- What RING_INIT leaves of memory and cache. -/
structure Store.RingBuilt (c : Config) (r : Ring) (x y : Store) : Prop where
  cell : ∀ i k, i < c.cap r → k < c.descWords → y.cell c (c.wordAddr r i k) = .clean (initWord c r i k)
  invalid : ∀ l ∈ c.linesOfRing r, y.cache.get l = none
  outside : Store.Outside c (c.linesOfRing r) x y
  ok : y.Ok c

theorem Store.Ok.ringWritten {c : Config} {x : Store} (hx : x.Ok c) (r : Ring) : (x.ringWritten c r).Ok c := by
  cases r with
  | tx => exact ((hx.cpuWriteAll _).afterRead _).cpuWrite _ _
  | rx => exact (((hx.cpuWriteAll _).cpuWriteAll _).afterRead _).cpuWrite _ _

/-! ## The lines of a Flush or an Invalidate of a range (R79, R161) -/

section
variable {c : Config} {a : Word} {n : Nat} {ls : List Nat} (hls : ls.Perm (c.syncLines a n))
include hls

theorem mem_lines_of_sync {l : Nat} (hl : l ∈ ls) : l ∈ c.lines a.toNat n := by
  have hm := hls.mem_iff.mp hl
  rw [Config.syncLines] at hm
  split at hm
  · simp at hm
  · exact hm

theorem mem_sync_of_lines (hc : c.coherent = false) {l : Nat} (hl : l ∈ c.lines a.toNat n) : l ∈ ls := by
  rwa [hls.mem_iff, Config.syncLines_not_coherent _ _ _ hc]

theorem sync_lines_fit (hn : a.toNat + n ≤ 2 ^ 32) : ∀ l ∈ ls, l % c.line = 0 ∧ l < 2 ^ 32 := fun _ hl =>
  ⟨Config.lines_mod (mem_lines_of_sync hls hl), Config.lines_lt hn (mem_lines_of_sync hls hl)⟩

/-- Every line of the range ends Invalid. -/
theorem get_sync_all (o : LineOp) {x : Store} (hx : x.Ok c) {l : Nat} (hl : l ∈ c.lines a.toNat n) :
    (o.all c ls x).cache.get l = none := by
  cases hc : c.coherent with
  | false => exact (o.get_all c ls x l).trans (if_pos (mem_sync_of_lines hls hc hl))
  | true => rw [(hx.all o ls).empty hc, Cache.get_nil]

/-- A word that holds a value has it in memory once its line is flushed. -/
theorem cell_sync_flush (hf : c.Flat) {x : Store} (hx : x.Ok c) (hn : a.toNat + n ≤ 2 ^ 32) {b v : Word}
    (hb : c.lineOf b.toNat ∈ c.lines a.toNat n) (h : (x.cell c b).Holds v) :
    (LineOp.flush.all c ls x).cell c b = .clean v := by
  rw [cell_flush_all hf (sync_lines_fit hls hn) hx]
  cases hc : c.coherent with
  | false => rw [if_pos (mem_sync_of_lines hls hc hb), h.flush]
  | true =>
    have hclean := Store.cell_coherent hx hc b
    have hram : (x.cell c b).ram = v := h.ram (by rw [hclean]; rfl)
    rw [hclean, hram, Cell.flush_clean, ite_self]

theorem outside_sync_flush (hf : c.Flat) {x : Store} (hx : x.Ok c) (hn : a.toNat + n ≤ 2 ^ 32) :
    Store.Outside c (c.lines a.toNat n) x (LineOp.flush.all c ls x) :=
  .flush hf hx ls fun l hl =>
    ⟨(sync_lines_fit hls hn l hl).1, (sync_lines_fit hls hn l hl).2, mem_lines_of_sync hls hl⟩

end

/-- I5's Flush after I2 to I4. -/
theorem ringBuilt {c : Config} (h : c.Launched) (hf : c.Flat) {x : Store} (hx : x.Ok c) (r : Ring) {ls : List Nat}
    (hls : ls.Perm (c.ringLines r)) : Store.RingBuilt c r x (LineOp.flush.all c ls (x.ringWritten c r)) where
  cell _ _ hi hk := cell_sync_flush hls hf (hx.ringWritten r) (h.ringEnd r) (h.lineOf_mem_ring r hi hk)
    (holds_ringWritten h hf hx r hi hk)
  invalid _ hl := get_sync_all hls .flush (hx.ringWritten r) hl
  outside := (outside_ringWritten h hf r x).trans (outside_sync_flush hls hf (hx.ringWritten r) (h.ringEnd r))
  ok := (hx.ringWritten r).all .flush ls

/-! ## The phases, one after another -/

/-- A command that takes RING_INIT's phases I2 to I6 of a ring at its own phases `go` (R141, R259). -/
structure TakesRing (i : Instr) (r : Ring) (go : RingPhase → Phase) : Prop where
  next : ∀ s u p q, s.phase = go p → ringInitStep r p s = (u, some q) → exec i s = .next (u.atPhase i (go q))
  lines : ∀ todo, linesLeft i (go (.i5 todo)) = some (.flush, todo, fun l => go (.i5 l))

theorem takesRing_ringInit (r : Ring) : TakesRing (.ringInit r) r .ringInit where
  next s u p q hp hs := by rw [exec_ringInit r p s hp, hs]; rfl
  lines _ := rfl

theorem takesRing_devS6 : TakesRing .devStart .tx .devS6 where
  next s u p q hp hs := by rw [exec_devStart_devS6 s p hp, hs]; rfl
  lines _ := rfl

theorem takesRing_devS7 : TakesRing .devStart .rx .devS7 where
  next s u p q hp hs := by rw [exec_devStart_devS7 s p hp, hs]; rfl
  lines _ := rfl

theorem ringInitStep_i3 (r : Ring) (s : State) :
    ringInitStep r .i3 s = (s.withStore (s.store.armRing s.cfg r), some .i4) := by cases r <;> rfl

/-- I2 to I5, up to I6. -/
theorem TakesRing.reaches {i : Instr} {r : Ring} {go : RingPhase → Phase} (ht : TakesRing i r go) (s : State)
    (h : s.cfg.Launched) (hf : s.cfg.Flat) (hx : s.store.Ok s.cfg) (hp : s.phase = go .i2) :
    ∃ y, Store.RingBuilt s.cfg r s.store y ∧ Reaches i s ((s.withStore y).atPhase i (go .i6)) := by
  have h2 := ht.next s _ .i2 .i3 hp rfl
  have h3 := ht.next _ _ .i3 .i4 (State.atPhase_phase ..) (ringInitStep_i3 r
    ((s.memWriteAll (s.cfg.zeroWrites r)).atPhase i (go .i3)))
  have h4 := ht.next _ _ .i4 _ (State.atPhase_phase ..) (rfl : ringInitStep r .i4
    (((s.withStore ((s.store.cpuWriteAll s.cfg (s.cfg.zeroWrites r)).armRing s.cfg r))).atPhase i (go .i4)) = _)
  have hwrites : Reaches i s ((s.withStore (s.store.ringWritten s.cfg r)).atPhase i (go (.i5 (s.cfg.ringLines r)))) :=
    (Reaches.of_exec h2 rfl).trans ((Reaches.of_exec h3 rfl).trans (Reaches.of_exec h4 rfl))
  obtain ⟨ls, op, b, hls, hlines⟩ := reaches_lines (s.cfg.ringLines r)
    ((s.withStore (s.store.ringWritten s.cfg r)).atPhase i (go (.i5 (s.cfg.ringLines r)))) (ht.lines _)
  have h5 := ht.next (((s.withStore (s.store.ringWritten s.cfg r)).withStore
    (LineOp.flush.all s.cfg ls (s.store.ringWritten s.cfg r))).placed op b (go (.i5 []))) _ (.i5 []) .i6 rfl rfl
  exact ⟨_, ringBuilt h hf hx r hls, hwrites.trans (hlines.trans (Reaches.of_exec h5 rfl))⟩

end Sys2Proof.Machine


/-! PROOFS. The ring commands with no other agent between their phases: RING_INIT (40_ring.md R141), RX_POLL and RX_RELEASE
(43_rx.md R211, R212) and TX_SUBMIT up to its doorbell (42_tx.md R182). -/

namespace Sys2Proof.Machine

/-! ## Words of the state and of its memory and cache -/

theorem State.ramWord_eq_cell {s : State} (hf : s.cfg.Flat) (a : Word) (ha : a.toNat % 4 = 0) :
    s.ramWord a = (s.store.cell s.cfg a).ram := (Store.cell_ram hf s.store a ha).symm

theorem State.memRead_eq_cell {s : State} (hf : s.cfg.Flat) (hs : s.storeOk = true) (a : Word) (ha : a.toNat % 4 = 0) :
    s.memRead a = (s.store.cell s.cfg a).view := (Store.cell_view hf (State.store_ok hs) a ha).symm

theorem State.releaseSlot_eq (s : State) : s.releaseSlot = s.cfg.wordAddr .rx s.rxOutSlot 0 :=
  (s.cfg.wordAddr_zero .rx s.rxOutSlot).symm

theorem State.rxSlot_eq (s : State) : s.rxSlot = s.cfg.wordAddr .rx s.rxCur 0 := (s.cfg.wordAddr_zero .rx s.rxCur).symm

theorem State.txSlot_eq (s : State) : s.txSlot = s.cfg.wordAddr .tx s.txCur 0 := (s.cfg.wordAddr_zero .tx s.txCur).symm

/-- A word that memory and the CPU side agree on, read on either side. -/
theorem words_of_clean {c : Config} (hf : c.Flat) {x : Store} (hx : x.Ok c) {a v : Word} (ha : a.toNat % 4 = 0)
    (h : x.cell c a = .clean v) : x.mem.readWord c.endian (c.toDma a) = v ∧ x.cpuWord c a = v := by
  rw [← x.cell_ram hf a ha, ← Store.cell_view hf hx a ha, h]
  exact ⟨rfl, rfl⟩

/-- After an Invalidate of its line a word is memory's. -/
theorem cell_sync_invalidate {c : Config} {a b : Word} {n : Nat} {ls : List Nat} (hls : ls.Perm (c.syncLines a n))
    {x : Store} (hx : x.Ok c) (hb : c.lineOf b.toNat ∈ c.lines a.toNat n) :
    (LineOp.invalidate.all c ls x).cell c b = .clean (x.cell c b).ram := by
  rw [Store.cell, Store.side_of_none (get_sync_all hls .invalidate hx hb), Side.cell_drop]
  change Cell.clean (wordIn c b (lineBytes c (LineOp.invalidate.all c ls x).mem _)) = _
  rw [LineOp.mem_all_invalidate]
  rfl

/-! ## RING_INIT -/

/-- Settles O27: I1, the run through I2 to I5, and I6. -/
theorem ringInitAlone : Obligations.RingInitAlone := by
  intro r s hl hid hs hp hlife
  have h := Config.launched_of_launchOk hl
  have hf := h.flat hid
  have h1 := exec_ringInit_first r s hp
  rw [if_pos (by simpa using hlife)] at h1
  obtain ⟨y, hy, hrun⟩ := (takesRing_ringInit r).reaches (s.atPhase (.ringInit r) (.ringInit .i2)) h hf
    (State.store_ok hs) rfl
  obtain ⟨n, hn⟩ := ((Reaches.of_exec h1 rfl).trans hrun).lands (exec_ringInit r .i6 _ rfl)
  have hmem : (((s.withStore y).rewind r).endCommand .ok 0 0#32).store = y := by cases r <;> rfl
  refine ⟨n, _, hn, rfl, rfl, rfl, rfl, ?_, State.rewind_cur .., ?_, fun i k hi hk => ?_, fun l hl => ?_, fun x hx => ?_⟩
  · exact State.rewind_life ..
  · rintro rfl
    rfl
  · have hword := (words_of_clean hf hy.ok (h.wordAddr_aligned r hi hk) (hy.cell i k hi hk)).1
    cases r <;> exact hword
  · have hget := hy.invalid l hl
    cases r <;> exact hget
  · have hread := hy.outside.read hf x hx
    cases r <;> exact hread

/-! ## RX_RELEASE -/

/-- L2's read-modify-write on memory and cache. -/
def Store.release (c : Config) (a : Word) (x : Store) : Store :=
  (x.afterRead c a).cpuWrite c a (c.releaseWord (x.cpuWord c a))

/-- L1 to the end of L2, with no other agent between. -/
theorem rxRelease_reaches (s : State) (hp : s.phase = .first) (hl : s.life = .running) (ho : s.rxOut = true) :
    ∃ ls, ls.Perm (s.cfg.syncLines s.releaseSlot s.cfg.descSize) ∧ Reaches .rxRelease s
      ((s.withStore (LineOp.flush.all s.cfg ls (s.store.release s.cfg s.releaseSlot))).atPhase .rxRelease .rxL3) := by
  have h1 := exec_rxRelease_first s hp
  rw [if_pos ⟨hl, ho⟩] at h1
  have h2 : exec .rxRelease (s.atPhase .rxRelease .rxL2) =
      exec .rxRelease ((s.withStore (s.store.release s.cfg s.releaseSlot)).atPhase .rxRelease
        (.rxL2Lines (s.cfg.syncLines s.releaseSlot s.cfg.descSize))) :=
    (exec_rxRelease_rxL2 _ rfl).trans (((rxL2Lines_inPhase _ _ _).symm).trans (exec_rxRelease_rxL2Lines _ _ rfl).symm)
  obtain ⟨ls, op, b, hls, hrun⟩ := reaches_lines (i := .rxRelease) (s.cfg.syncLines s.releaseSlot s.cfg.descSize)
    ((s.withStore (s.store.release s.cfg s.releaseSlot)).atPhase .rxRelease
      (.rxL2Lines (s.cfg.syncLines s.releaseSlot s.cfg.descSize))) rfl
  refine ⟨ls, hls, (Reaches.of_exec h1 rfl).trans ((Reaches.of_same_exec h2).trans (hrun.trans ?_))⟩
  exact .of_exec (exec_rxRelease_rxL2Lines _ [] rfl) rfl

/-- Settles O47: the word that L2 writes is in memory after its Flush. -/
theorem rxReleaseAlone : Obligations.RxReleaseAlone := by
  intro s hl hid hs hp hlife ho hcap
  have h := Config.launched_of_launchOk hl
  have hf := h.flat hid
  have hx := State.store_ok hs
  obtain ⟨ls, hls, hrun⟩ := rxRelease_reaches s hp hlife ho
  obtain ⟨n, hn⟩ := hrun.lands (exec_rxRelease_rxL3 _ rfl)
  have halign : s.releaseSlot.toNat % 4 = 0 := s.releaseSlot_eq ▸ h.wordAddr_aligned .rx hcap h.words_pos
  have hline : s.cfg.lineOf s.releaseSlot.toNat ∈ s.cfg.lines s.releaseSlot.toNat s.cfg.descSize := by
    have hmem := h.lineOf_mem_slot .rx hcap h.words_pos
    rwa [Config.wordAddr_zero] at hmem
  have hend : s.releaseSlot.toNat + s.cfg.descSize ≤ 2 ^ 32 := by
    rw [State.releaseSlot, h.toNat_slot .rx hcap]
    exact (s.cfg.slot_end_le .rx hcap).trans (h.ringEnd .rx)
  have hy : (s.store.release s.cfg s.releaseSlot).Ok s.cfg := (hx.afterRead _).cpuWrite _ _
  have hholds : ((s.store.release s.cfg s.releaseSlot).cell s.cfg s.releaseSlot).Holds
      (s.cfg.releaseWord (s.memRead s.releaseSlot)) := holds_cpuWrite_same hf (hx.afterRead _) _ _ halign
  refine ⟨n, _, hn, rfl, rfl, rfl, ?_, rfl, rfl, fun x hxl => ?_⟩
  · exact (words_of_clean hf (hy.all .flush ls) halign (cell_sync_flush hls hf hy hend hline hholds)).1
  · have hout : Store.Outside s.cfg _ s.store (s.store.release s.cfg s.releaseSlot) :=
      (Store.Outside.afterRead _ _ hline).trans (.cpuWrite hf _ _ _ halign hline)
    exact (hout.trans (outside_sync_flush hls hf hy hend)).read hf x hxl

/-! ## RX_POLL -/

/-- P1 up to its test, with no other agent between: the CPU side has memory's words of the slot. -/
theorem rxPoll_reaches_test (s : State) (h : s.cfg.Launched) (hf : s.cfg.Flat) (hs : s.storeOk = true)
    (hp : s.phase = .first) (hl : s.life = .running) (ho : s.rxOut = false) (hcap : s.rxCur < s.cfg.rxCap) :
    ∃ y op b, y.Ok s.cfg ∧ y.mem = s.mem ∧
      (∀ k, k < s.cfg.descWords → y.cell s.cfg (s.cfg.wordAddr .rx s.rxCur k) =
        .clean (s.ramWord (s.cfg.wordAddr .rx s.rxCur k))) ∧
      Reaches .rxPoll s ((s.withStore y).placed op b (.rxP1 [])) := by
  have h1 := exec_rxPoll_first s hp
  rw [if_pos ⟨hl, ho⟩] at h1
  have h2 : exec .rxPoll s = exec .rxPoll (s.inPhase (.rxP1 (s.cfg.syncLines s.rxSlot s.cfg.descSize))) :=
    h1.trans (((rxP1_inPhase _ s _).symm).trans (exec_rxPoll_rxP1 _ _ rfl).symm)
  obtain ⟨ls, op, b, hls, hrun⟩ := reaches_lines (i := .rxPoll) (s.cfg.syncLines s.rxSlot s.cfg.descSize)
    (s.inPhase (.rxP1 (s.cfg.syncLines s.rxSlot s.cfg.descSize))) rfl
  refine ⟨_, op, b, (State.store_ok hs).all .invalidate ls, LineOp.mem_all_invalidate .., fun k hk => ?_,
    (Reaches.of_same_exec h2).trans hrun⟩
  rw [State.ramWord_eq_cell hf _ (h.wordAddr_aligned .rx hcap hk)]
  exact cell_sync_invalidate hls (State.store_ok hs) (h.lineOf_mem_slot .rx hcap hk)

theorem exec_rxPoll_good (s : State) (hp : s.phase = .rxP1 []) (ho : s.cfg.own (s.memRead s.rxSlot) = true)
    (hb : s.cfg.rxBad (s.memRead s.rxSlot) = false) :
    exec .rxPoll s = .next ((s.memReadState s.rxSlot).atPhase .rxPoll (.rxP2 (s.memRead s.rxSlot))) := by
  rw [exec_rxPoll_rxP1_nil s hp, rxCheckSlot_eq, if_pos ⟨ho, hb⟩]

theorem exec_rxPoll_none (s : State) (hp : s.phase = .rxP1 [])
    (hn : ¬(s.cfg.own (s.memRead s.rxSlot) = true ∧ s.cfg.rxBad (s.memRead s.rxSlot) = false)) :
    exec .rxPoll s = .next ((s.memReadState s.rxSlot).endCommand .noPacket 0 0#32) := by
  rw [exec_rxPoll_rxP1_nil s hp, rxCheckSlot_eq, if_neg hn]

/-- P2 up to P3, with no other agent between. -/
theorem rxPoll_reaches_end (s : State) (w : Word) (hp : s.phase = .rxP2 w) :
    ∃ ls, ls.Perm (s.cfg.syncLines s.viewAddr (s.cfg.len w)) ∧ Reaches .rxPoll s
      ((s.withStore (LineOp.invalidate.all s.cfg ls (s.store.afterRead s.cfg (bufWordOf s.cfg s.rxSlot)))).atPhase .rxPoll
        (.rxP3 (s.cfg.len w) s.viewAddr)) := by
  have h1 : exec .rxPoll s = exec .rxPoll ((s.memReadState (bufWordOf s.cfg s.rxSlot)).inPhase
      (.rxP2Lines (s.cfg.len w) s.viewAddr (s.cfg.syncLines s.viewAddr (s.cfg.len w)))) :=
    (exec_rxPoll_rxP2 s w hp).trans (((rxP2Lines_inPhase _ _ _ _ _).symm).trans
      (exec_rxPoll_rxP2Lines _ _ _ _ rfl).symm)
  obtain ⟨ls, op, b, hls, hrun⟩ := reaches_lines (i := .rxPoll) (s.cfg.syncLines s.viewAddr (s.cfg.len w))
    ((s.memReadState (bufWordOf s.cfg s.rxSlot)).inPhase
      (.rxP2Lines (s.cfg.len w) s.viewAddr (s.cfg.syncLines s.viewAddr (s.cfg.len w)))) rfl
  exact ⟨ls, hls, (Reaches.of_same_exec h1).trans (hrun.trans (.of_exec (exec_rxPoll_rxP2Lines _ _ _ [] rfl) rfl))⟩

/-- P2 and P3 with no other agent between. -/
theorem rxPoll_good_alone (s : State) (w b : Word) (hx : s.store.Ok s.cfg) (hp : s.phase = .rxP2 w)
    (hb : s.viewAddr = b) {u : State} (hu : Reaches .rxPoll u s) :
    ∃ n t, runAlone .rxPoll n u = .next t ∧ t.op = none ∧ t.mem = s.mem ∧ t.rxCur = s.rxCur ∧ t.txCur = s.txCur ∧
      t.res0 = resultWord .ok (s.cfg.len w) ∧ t.res1 = b ∧ t.rxOut = true ∧ t.rxOutSlot = s.rxCur ∧
      ∀ l ∈ s.cfg.lines b.toNat (s.cfg.len w), t.cache.get l = none := by
  subst hb
  obtain ⟨ls, hls, hend⟩ := rxPoll_reaches_end s w hp
  obtain ⟨n, hn⟩ := (hu.trans hend).lands (exec_rxPoll_rxP3 _ _ _ rfl)
  refine ⟨n, _, hn, rfl, ?_, rfl, rfl, rfl, rfl, rfl, rfl, fun l hl => ?_⟩
  · exact (LineOp.mem_all_invalidate ..).trans (Store.afterRead_mem ..)
  · exact get_sync_all hls .invalidate (hx.afterRead _) hl

/-- Settles O46: after P1's Invalidate the CPU side sees memory's words of the slot. -/
theorem rxPollAlone : Obligations.RxPollAlone := by
  intro s hl hid hs hp hlife ho hcap
  have h := Config.launched_of_launchOk hl
  have hf := h.flat hid
  obtain ⟨y, op, b, hy, hmem, hword, hrun⟩ := rxPoll_reaches_test s h hf hs hp hlife ho hcap
  have hread {x : Store} (hx : x.Ok s.cfg) {k : Nat} (hk : k < s.cfg.descWords)
      (he : x.cell s.cfg (s.cfg.wordAddr .rx s.rxCur k) = y.cell s.cfg (s.cfg.wordAddr .rx s.rxCur k)) :
      x.cpuWord s.cfg (s.cfg.wordAddr .rx s.rxCur k) = s.ramWord (s.cfg.wordAddr .rx s.rxCur k) :=
    (words_of_clean hf hx (h.wordAddr_aligned .rx hcap hk) (he.trans (hword k hk))).2
  have hseen : ((s.withStore y).placed op b (.rxP1 [])).memRead s.rxSlot = s.ramWord s.rxSlot := by
    rw [s.rxSlot_eq]
    exact hread hy h.words_pos rfl
  by_cases hgood : s.cfg.own (s.ramWord s.rxSlot) = true ∧ s.cfg.rxBad (s.ramWord s.rxSlot) = false
  · rw [← hseen] at hgood
    have htest := exec_rxPoll_good ((s.withStore y).placed op b (.rxP1 [])) rfl hgood.1 hgood.2
    have haddr : State.viewAddr ((((s.withStore y).placed op b (.rxP1 [])).memReadState s.rxSlot).atPhase .rxPoll
        (.rxP2 (((s.withStore y).placed op b (.rxP1 [])).memRead s.rxSlot))) =
        s.cfg.fromDma (s.ramWord (bufWordOf s.cfg s.rxSlot)) :=
      congrArg s.cfg.fromDma (hread (hy.afterRead _) h.bufWord_lt (Store.cell_afterRead ..))
    obtain ⟨n, t, hn, hop, htmem, hcur, htx, h0, h1, hout, hslot, hlines⟩ := rxPoll_good_alone
      ((((s.withStore y).placed op b (.rxP1 [])).memReadState s.rxSlot).atPhase .rxPoll
        (.rxP2 (((s.withStore y).placed op b (.rxP1 [])).memRead s.rxSlot))) _ _ (hy.afterRead _) rfl haddr
      (hrun.trans (Reaches.of_exec htest rfl))
    rw [hseen] at hgood h0 hlines
    refine ⟨n, t, hn, hop, htmem.trans ((Store.afterRead_mem ..).trans hmem), hcur, htx, ?_⟩
    rw [if_pos hgood, h1]
    exact ⟨h0, rfl, hout, hslot, hlines⟩
  · rw [← hseen] at hgood
    have htest := exec_rxPoll_none ((s.withStore y).placed op b (.rxP1 [])) rfl hgood
    rw [hseen] at hgood
    obtain ⟨n, hn⟩ := hrun.lands htest
    refine ⟨n, _, hn, rfl, (Store.afterRead_mem ..).trans hmem, rfl, rfl, ?_⟩
    rw [if_neg hgood]
    exact ⟨rfl, rfl, ho, rfl⟩

end Sys2Proof.Machine


/-! PROOFS. TX_SUBMIT up to its doorbell with no other agent between its phases (42_tx.md R182, R183). -/

namespace Sys2Proof.Machine

theorem exec_txSubmit_enters_T1 (s : State) (hp : s.phase = .first) (hl : s.life = .running)
    (hlen : s.txLen ≤ s.cfg.lenMax) (hwrap : s.arg0.toNat + s.txLen ≤ 2 ^ 32) :
    exec .txSubmit s = exec .txSubmit (s.inPhase (.txT1 (s.cfg.syncLines s.txSlot s.cfg.descSize))) := by
  rw [exec_txSubmit_first s hp, txStart_eq, if_pos hl, if_neg (by omega), exec_txSubmit_txT1 _ _ rfl]
  exact (txT1_inPhase _ s _).symm

theorem exec_txSubmit_txT1_free (s : State) (w : Word) (hp : s.phase = .txT1 []) (hw : s.memRead s.txSlot = w)
    (ho : s.cfg.own w = false) :
    exec .txSubmit s = .next ((s.memReadState s.txSlot).atPhase .txSubmit (.txT2 w)) := by
  rw [exec_txSubmit_txT1_nil s hp, hw, if_neg (by simp [ho])]

/-- T1 with no other agent between, at a slot that memory gives to software: the CPU side has memory's words of the slot. -/
theorem txSubmit_reaches_T2 (s : State) (h : s.cfg.Launched) (hf : s.cfg.Flat) (hs : s.storeOk = true)
    (hp : s.phase = .first) (hl : s.life = .running) (hcap : s.txCur < s.cfg.txCap) (hlen : s.txLen ≤ s.cfg.lenMax)
    (hwrap : s.arg0.toNat + s.txLen ≤ 2 ^ 32) (hown : s.cfg.own (s.ramWord s.txSlot) = false) :
    ∃ y, y.Ok s.cfg ∧ Store.Outside s.cfg (s.cfg.lines s.txSlot.toNat s.cfg.descSize) s.store y ∧
      (∀ k, k < s.cfg.descWords → y.cell s.cfg (s.cfg.wordAddr .tx s.txCur k) =
        .clean (s.ramWord (s.cfg.wordAddr .tx s.txCur k))) ∧
      Reaches .txSubmit s ((s.withStore y).atPhase .txSubmit (.txT2 (s.ramWord s.txSlot))) := by
  have h1 := exec_txSubmit_enters_T1 s hp hl hlen hwrap
  obtain ⟨ls, op, b, hls, hrun⟩ := reaches_lines (i := .txSubmit) (s.cfg.syncLines s.txSlot s.cfg.descSize)
    (s.inPhase (.txT1 (s.cfg.syncLines s.txSlot s.cfg.descSize))) rfl
  have hx := State.store_ok hs
  have hy : (LineOp.invalidate.all s.cfg ls s.store).Ok s.cfg := hx.all .invalidate ls
  have hword (k : Nat) (hk : k < s.cfg.descWords) :
      (LineOp.invalidate.all s.cfg ls s.store).cell s.cfg (s.cfg.wordAddr .tx s.txCur k) =
        .clean (s.ramWord (s.cfg.wordAddr .tx s.txCur k)) := by
    rw [State.ramWord_eq_cell hf _ (h.wordAddr_aligned .tx hcap hk)]
    exact cell_sync_invalidate hls hx (h.lineOf_mem_slot .tx hcap hk)
  have hline : s.cfg.lineOf s.txSlot.toNat ∈ s.cfg.lines s.txSlot.toNat s.cfg.descSize := by
    have hmem := h.lineOf_mem_slot .tx hcap h.words_pos
    rwa [Config.wordAddr_zero] at hmem
  have hseen : ((s.withStore (LineOp.invalidate.all s.cfg ls s.store)).placed op b (.txT1 [])).memRead s.txSlot =
      s.ramWord s.txSlot := by
    rw [s.txSlot_eq]
    exact (words_of_clean hf hy (h.wordAddr_aligned .tx hcap h.words_pos) (hword 0 h.words_pos)).2
  have htest := exec_txSubmit_txT1_free _ _ rfl hseen hown
  refine ⟨_, hy.afterRead s.txSlot, (Store.Outside.invalidate _ ls fun l hl => mem_lines_of_sync hls hl).trans
    (.afterRead _ _ hline), fun k hk => (Store.cell_afterRead ..).trans (hword k hk),
    (Reaches.of_same_exec h1).trans (hrun.trans (.of_exec htest rfl))⟩

/-- T2 to T4 on memory and cache, with the buffer's lines flushed between in the order `ls`. -/
def Store.filled (c : Config) (slot addr word : Word) (ls : List Nat) (x : Store) : Store :=
  (LineOp.flush.all c ls (x.cpuWrite c (bufWordOf c slot) addr)).cpuWrite c slot word

theorem Store.filled_slot (c : Config) (i : Nat) (addr word : Word) (ls : List Nat) (x : Store) :
    x.filled c (c.slot .tx i) addr word ls =
      (LineOp.flush.all c ls (x.cpuWrite c (c.wordAddr .tx i c.bufWord) addr)).cpuWrite c (c.wordAddr .tx i 0) word := by
  rw [Config.wordAddr_zero]
  rfl

/-- T2 to T5 with no other agent between. -/
theorem txSubmit_reaches_T6 (s : State) (w : Word) (hp : s.phase = .txT2 w) :
    ∃ ls ks, ls.Perm (s.cfg.syncLines s.arg0 s.txLen) ∧ ks.Perm (s.cfg.syncLines s.txSlot s.cfg.descSize) ∧
      ∃ v, Reaches .txSubmit s v ∧ exec .txSubmit v = .next ((s.withStore (LineOp.flush.all s.cfg ks
        (s.store.filled s.cfg s.txSlot (s.cfg.toDma s.arg0) (s.cfg.txWord0 w s.txLen) ls))).atPhase .txSubmit .txT6) := by
  have h2 := exec_txSubmit_txT2 s w hp
  obtain ⟨ls, op, b, hls, hrun⟩ := reaches_lines (i := .txSubmit) (s.cfg.syncLines s.arg0 s.txLen)
    ((s.memWrite (bufWordOf s.cfg s.txSlot) (s.cfg.toDma s.arg0)).atPhase .txSubmit
      (.txT3 w (s.cfg.syncLines s.arg0 s.txLen))) rfl
  have h3 := exec_txSubmit_txT3 _ w [] (rfl : ((((s.memWrite (bufWordOf s.cfg s.txSlot) (s.cfg.toDma s.arg0)).atPhase
    .txSubmit (.txT3 w (s.cfg.syncLines s.arg0 s.txLen))).withStore (LineOp.flush.all s.cfg ls
      (s.store.cpuWrite s.cfg (bufWordOf s.cfg s.txSlot) (s.cfg.toDma s.arg0)))).placed op b (.txT3 w [])).phase = _)
  have h4 := exec_txSubmit_txT4 ((s.withStore (LineOp.flush.all s.cfg ls
    (s.store.cpuWrite s.cfg (bufWordOf s.cfg s.txSlot) (s.cfg.toDma s.arg0)))).atPhase .txSubmit (.txT4 w)) w rfl
  obtain ⟨ks, op', b', hks, hrun'⟩ := reaches_lines (i := .txSubmit) (s.cfg.syncLines s.txSlot s.cfg.descSize)
    ((s.withStore (s.store.filled s.cfg s.txSlot (s.cfg.toDma s.arg0) (s.cfg.txWord0 w s.txLen) ls)).atPhase .txSubmit
      (.txT5 (s.cfg.syncLines s.txSlot s.cfg.descSize))) rfl
  exact ⟨ls, ks, hls, hks, _, (Reaches.of_exec h2 rfl).trans (hrun.trans ((Reaches.of_exec h3 rfl).trans
    ((Reaches.of_exec h4 rfl).trans hrun'))), exec_txSubmit_txT5 _ [] rfl⟩

/-- Words and frame bytes through T2 to T5: each word of the slot holds what T2 and T4 give it, and the buffer's bytes are
flushed. -/
structure Published (c : Config) (slot : Nat) (x y : Store) (addr word : Word) : Prop where
  word0 : y.cell c (c.wordAddr .tx slot 0) = .clean word
  buffer : y.cell c (c.wordAddr .tx slot c.bufWord) = .clean addr
  rest : ∀ k, k < c.descWords → k ≠ 0 → k ≠ c.bufWord → ∀ v, x.cell c (c.wordAddr .tx slot k) = .clean v →
    y.cell c (c.wordAddr .tx slot k) = .clean v

section
variable {c : Config} (h : c.Launched) (hf : c.Flat) {i : Nat} (hi : i < c.txCap) {x : Store} (hx : x.Ok c)
  {ls ks : List Nat} {a : Word} {n : Nat} (hls : ls.Perm (c.syncLines a n)) (hn : a.toNat + n ≤ 2 ^ 32)
  (happart : ∀ l ∈ c.lines a.toNat n, l ∉ c.lines (c.slot .tx i).toNat c.descSize)
  (hks : ks.Perm (c.syncLines (c.slot .tx i) c.descSize)) (addr word : Word)
include h hi

theorem slot_fits : (c.slot .tx i).toNat + c.descSize ≤ 2 ^ 32 := by
  rw [h.toNat_slot .tx hi]
  exact (c.slot_end_le .tx hi).trans (h.ringEnd .tx)

theorem slot_words {k : Nat} (hk : k < c.descWords) : (c.wordAddr .tx i k).toNat % 4 = 0 ∧
    c.lineOf (c.wordAddr .tx i k).toNat ∈ c.lines (c.slot .tx i).toNat c.descSize :=
  ⟨h.wordAddr_aligned .tx hi hk, h.lineOf_mem_slot .tx hi hk⟩

include hf hx hls hn happart

/-- The word before T4: T2's, or as it was. -/
theorem holds_before_word0 {k : Nat} (hk : k < c.descWords) {v : Word}
    (hv : if k = c.bufWord then v = addr else x.cell c (c.wordAddr .tx i k) = .clean v) :
    ((LineOp.flush.all c ls (x.cpuWrite c (c.wordAddr .tx i c.bufWord) addr)).cell c (c.wordAddr .tx i k)).Holds v := by
  have hy := hx.cpuWrite (c.wordAddr .tx i c.bufWord) addr
  have hbuf := slot_words h hi h.bufWord_lt
  rw [(outside_sync_flush hls hf hy hn).cell _ fun hm => happart _ hm (slot_words h hi hk).2]
  by_cases hb : k = c.bufWord
  · subst hb
    rw [if_pos rfl] at hv
    exact hv ▸ holds_cpuWrite_same hf hx _ _ hbuf.1
  · rw [if_neg hb] at hv
    refine holds_cpuWrite_other hf hx _ _ _ _ (slot_words h hi hk).1 hbuf.1 (fun he => hb ?_) (hv ▸ Cell.holds_clean v)
    exact (h.wordAddr_inj hi hi hk h.bufWord_lt he).2.2

include hks

theorem published : Published c i x (LineOp.flush.all c ks (x.filled c (c.slot .tx i) addr word ls)) addr word := by
  have hz : (LineOp.flush.all c ls (x.cpuWrite c (c.wordAddr .tx i c.bufWord) addr)).Ok c := (hx.cpuWrite _ _).all .flush ls
  have hy : (x.filled c (c.slot .tx i) addr word ls).Ok c := hz.cpuWrite _ _
  have h0 := slot_words h hi h.words_pos
  have hflush {k : Nat} (hk : k < c.descWords) {v : Word}
      (hv : ((x.filled c (c.slot .tx i) addr word ls).cell c (c.wordAddr .tx i k)).Holds v) :
      (LineOp.flush.all c ks (x.filled c (c.slot .tx i) addr word ls)).cell c (c.wordAddr .tx i k) = .clean v :=
    cell_sync_flush hks hf hy (slot_fits h hi) (slot_words h hi hk).2 hv
  have hother {k : Nat} (hk : k < c.descWords) (hk0 : k ≠ 0) {v : Word}
      (hv : if k = c.bufWord then v = addr else x.cell c (c.wordAddr .tx i k) = .clean v) :
      ((x.filled c (c.slot .tx i) addr word ls).cell c (c.wordAddr .tx i k)).Holds v := by
    rw [Store.filled_slot]
    refine holds_cpuWrite_other hf hz _ _ _ _ (slot_words h hi hk).1 h0.1 (fun he => hk0 ?_) ?_
    · exact (h.wordAddr_inj hi hi hk h.words_pos he).2.2
    · exact holds_before_word0 h hf hi hx hls hn happart addr hk hv
  refine ⟨hflush h.words_pos ?_, hflush h.bufWord_lt (hother h.bufWord_lt h.bufWord_ne_zero (by simp)),
    fun k hk hk0 hkb v hv => hflush hk (hother hk hk0 (by rwa [if_neg hkb]))⟩
  rw [Store.filled_slot]
  exact holds_cpuWrite_same hf hz _ _ h0.1

/-- A byte of the buffer is in memory as a Flush of its line leaves it. -/
theorem read_published {b : Word} (hb : c.lineOf b.toNat ∈ c.lines a.toNat n) :
    (LineOp.flush.all c ks (x.filled c (c.slot .tx i) addr word ls)).mem.read b.toNat =
      if c.coherent then x.mem.read b.toNat
      else (x.side c (c.lineOf b.toNat)).flush.mem.getD (b.toNat - c.lineOf b.toNat) 0#8 := by
  have hbuf := slot_words h hi h.bufWord_lt
  have h0 := slot_words h hi h.words_pos
  have hx1 := hx.cpuWrite (c.wordAddr .tx i c.bufWord) addr
  have hx2 := hx1.all .flush ls
  have hout := happart _ hb
  have hlast : Store.Outside c (c.lines (c.slot .tx i).toNat c.descSize)
      (LineOp.flush.all c ls (x.cpuWrite c (c.wordAddr .tx i c.bufWord) addr))
      (LineOp.flush.all c ks (x.filled c (c.slot .tx i) addr word ls)) := by
    have hwrite := Store.Outside.cpuWrite hf (LineOp.flush.all c ls (x.cpuWrite c (c.wordAddr .tx i c.bufWord) addr)) _
      word h0.1 h0.2
    rw [Config.wordAddr_zero] at hwrite
    exact hwrite.trans (outside_sync_flush hks hf (hx2.cpuWrite _ _) (slot_fits h hi))
  have hfirst := Store.Outside.cpuWrite hf x _ addr hbuf.1 hbuf.2
  rw [hlast.read hf b hout, read_flush_all hf (sync_lines_fit hls hn) hx1,
    hfirst.side _ (c.lineOf_mod _) (c.lineOf_lt b) hout]
  cases hc : c.coherent with
  | false => rw [if_pos (mem_sync_of_lines hls hc hb), if_neg (by simp)]
  | true =>
    rw [if_neg (by simp [hls.mem_iff, Config.syncLines_coherent _ _ _ hc]), if_pos rfl, hfirst.read hf b hout]

end

/-- Settles O41: T1's words are memory's, and T2 to T5 publish the slot and flush the buffer. -/
theorem txPublishes : Obligations.TxPublishes := by
  intro s hl hid hs hp hlife hcap hlen hwrap hown happart
  have h := Config.launched_of_launchOk hl
  have hf := h.flat hid
  obtain ⟨y, hy, hout, hword, hrun⟩ := txSubmit_reaches_T2 s h hf hs hp hlife hcap hlen hwrap hown
  obtain ⟨ls, ks, hls, hks, v, hrun', he⟩ := txSubmit_reaches_T6 _ (s.ramWord s.txSlot) (State.atPhase_phase ..)
  obtain ⟨n, hn⟩ := (hrun.trans hrun').lands he
  have hpub := published h hf hcap hy hls hwrap happart hks (s.cfg.toDma s.arg0)
    (s.cfg.txWord0 (s.ramWord s.txSlot) s.txLen)
  have hok : (LineOp.flush.all s.cfg ks (y.filled s.cfg (s.cfg.slot .tx s.txCur) (s.cfg.toDma s.arg0)
      (s.cfg.txWord0 (s.ramWord s.txSlot) s.txLen) ls)).Ok s.cfg :=
    (((hy.cpuWrite _ _).all .flush ls).cpuWrite _ _).all .flush ks
  have hram {k : Nat} (hk : k < s.cfg.descWords) {w : Word} (hw : Store.cell s.cfg (s.cfg.wordAddr .tx s.txCur k) _ =
      .clean w) := (words_of_clean hf hok (h.wordAddr_aligned .tx hcap hk) hw).1
  refine ⟨n, _, hn, rfl, rfl, ?_, ?_, fun k hk hk0 hkb => hram hk (hpub.rest k hk hk0 hkb _ (hword k hk)),
    fun k hk => ?_, rfl, rfl⟩
  · have hw0 := hram h.words_pos hpub.word0
    rwa [Config.wordAddr_zero] at hw0
  · exact (hram h.bufWord_lt hpub.buffer).trans (Config.toDma_id _ _ hid)
  · have hnat : (s.arg0 + BitVec.ofNat 32 k).toNat = s.arg0.toNat + k := by
      rw [BitVec.toNat_add, BitVec.toNat_ofNat]
      omega
    have hmem : s.cfg.lineOf (s.arg0 + BitVec.ofNat 32 k).toNat ∈ s.cfg.lines s.arg0.toNat s.txLen := by
      rw [hnat]
      exact s.cfg.lineOf_mem_lines (by omega) (by omega)
    have hnot := happart _ hmem
    refine (read_published h hf hcap hy hls hwrap happart hks _ _ hmem).trans ?_
    rw [hout.read hf _ hnot, hout.side _ (s.cfg.lineOf_mod _) (s.cfg.lineOf_lt _) hnot, ← State.flushedByte_eq hf]
    cases hc : s.cfg.coherent with
    | false => rfl
    | true =>
      have hempty : s.cache = [] := (State.store_ok hs).empty hc
      simp [State.flushedByte, hempty]

end Sys2Proof.Machine


/-! PROOFS. The DMA agents' work on one slot from its start to its end, in any byte order (42_tx.md R200, 43_rx.md R230). -/

namespace Sys2Proof.Machine

/-! ## The TX DMA agent -/

theorem runTxDma_append (as bs : List (Nat × Word × List (Nat × Word))) (s : State) :
    runTxDma (as ++ bs) s = runTxDma bs (runTxDma as s) := by
  induction as generalizing s with
  | nil => rfl
  | cons d rest ih => exact ih _

section
variable {s : State} (hen : s.txEnabled = true)
include hen

theorem txDmaTurn_idle (pick : Nat) (x : Word) (reserved : List (Nat × Word)) (hd : s.txd = .idle)
    (hk : s.txKick = true) (ho : s.cfg.own (s.dmaRead s.txHwptr) = true) :
    txDmaTurn pick x reserved s = { s with txd := .fetched (s.dmaRead s.txHwptr) } := by
  simp [txDmaTurn, hen, hd, hk, ho]

theorem txDmaTurn_fetched (pick : Nat) (x : Word) (reserved : List (Nat × Word)) (w : Word) (hd : s.txd = .fetched w) :
    txDmaTurn pick x reserved s = { s with
      txd := .addressed w (s.dmaRead (bufWordOf s.cfg s.txHwptr)) (List.range (s.cfg.len w))
        (List.replicate (s.cfg.len w) 0#8) } := by
  simp [txDmaTurn, hen, hd]

theorem txDmaTurn_addressed (pick : Nat) (x : Word) (reserved : List (Nat × Word)) (w b : Word) (todo : List Nat)
    (buf : List Byte) (hd : s.txd = .addressed w b todo buf) :
    txDmaTurn pick x reserved s = txReadByte pick w b todo buf s := by
  simp [txDmaTurn, hen, hd]

end

/-- The frame buffer with the bytes of memory at `b` in the places of a list. -/
def fillFrom (m : Memory) (b : Word) (buf : List Byte) (todo : List Nat) : List Byte :=
  todo.foldl (fun bs k => bs.set k (m.read (b + BitVec.ofNat 32 k).toNat)) buf

theorem fillFrom_length (m : Memory) (b : Word) (buf : List Byte) (todo : List Nat) :
    (fillFrom m b buf todo).length = buf.length := by
  induction todo generalizing buf with
  | nil => rfl
  | cons k rest ih => rw [fillFrom, List.foldl_cons]; exact (ih _).trans (List.length_set ..)

theorem fillFrom_getElem? (m : Memory) (b : Word) (buf : List Byte) (todo : List Nat) (j : Nat) (hj : j < buf.length) :
    (fillFrom m b buf todo)[j]? = if j ∈ todo then some (m.read (b + BitVec.ofNat 32 j).toNat) else buf[j]? := by
  induction todo generalizing buf with
  | nil => rfl
  | cons k rest ih =>
    rw [fillFrom, List.foldl_cons]
    refine (ih _ (by simpa using hj)).trans ?_
    by_cases hk : j = k
    · subst hk
      by_cases hr : j ∈ rest <;> simp [hr, hj]
    · simp [hk, List.getElem?_set_ne (Ne.symm hk)]

/-- All the bytes of a frame, read in any order, are the frame. -/
theorem fillFrom_range (m : Memory) (b : Word) (n : Nat) (buf : List Byte) (hb : buf.length = n) {todo : List Nat}
    (ht : todo.Perm (List.range n)) : fillFrom m b buf todo = m.readBytes b n := by
  refine List.ext_getElem? fun j => ?_
  by_cases hj : j < n
  · rw [fillFrom_getElem? _ _ _ _ _ (hb ▸ hj), if_pos (ht.mem_iff.mpr (List.mem_range.mpr hj)),
      Memory.readBytes_getElem? _ _ _ _ hj]
  · rw [List.getElem?_eq_none (by rw [fillFrom_length]; omega), List.getElem?_eq_none (by simp; omega)]

/-- D3 with any draws: each byte is read once, and the frame goes onto the wire with the last. -/
theorem runTxDma_bytes (draws : List (Nat × Word × List (Nat × Word))) (s : State) (w b : Word) (todo : List Nat)
    (buf : List Byte) (hen : s.txEnabled = true) (hd : s.txd = .addressed w b todo buf)
    (hlen : draws.length = max todo.length 1) :
    ∃ ks, ks.Perm todo ∧
      runTxDma draws s = { s with wireTx := s.wireTx ++ [fillFrom s.mem b buf ks], txd := .sent w } := by
  induction draws generalizing s todo buf with
  | nil => simp only [List.length_nil] at hlen; omega
  | cons d rest ih =>
    rw [runTxDma, txDmaTurn_addressed hen _ _ _ w b todo buf hd]
    cases todo with
    | nil =>
      obtain rfl : rest = [] := List.length_eq_zero_iff.mp (by simpa using hlen)
      exact ⟨[], .nil, rfl⟩
    | cons k ks =>
      obtain ⟨x, more, ht, hperm, -⟩ := takePick_cons d.1 k ks
      rw [txReadByte, ht]
      have hmore : more.length = ks.length := by simpa using hperm.length_eq
      have hrest : rest.length = ks.length := by simp at hlen; omega
      cases more with
      | nil =>
        obtain rfl : rest = [] := List.length_eq_zero_iff.mp (hrest.trans hmore.symm)
        exact ⟨[x], hperm, rfl⟩
      | cons y ys =>
        obtain ⟨js, hjs, hrun⟩ := ih
          { s with txd := .addressed w b (y :: ys) (buf.set x (s.mem.read (b + BitVec.ofNat 32 x).toNat)) }
          (y :: ys) _ hen rfl (by rw [hrest, ← hmore, List.length_cons]; omega)
        exact ⟨x :: js, (hjs.cons x).trans hperm, hrun⟩

theorem exists_concat_of_length_pos {α : Type} {l : List α} (h : 0 < l.length) : ∃ xs x, l = xs ++ [x] :=
  ⟨l.dropLast, l.getLast (List.ne_nil_of_length_pos h), (List.dropLast_append_getLast _).symm⟩

/-- D1 to D3 with any draws. -/
theorem runTxDma_to_sent (s : State) (d1 d2 : Nat × Word × List (Nat × Word))
    (bytes : List (Nat × Word × List (Nat × Word))) (hen : s.txEnabled = true) (hd : s.txd = .idle)
    (hk : s.txKick = true) (ho : s.cfg.own (s.dmaRead s.txHwptr) = true)
    (hlen : bytes.length = max (s.cfg.len (s.dmaRead s.txHwptr)) 1) :
    runTxDma (d1 :: d2 :: bytes) s = { s with
      wireTx := s.wireTx ++
        [s.mem.readBytes (s.dmaRead (bufWordOf s.cfg s.txHwptr)) (s.cfg.len (s.dmaRead s.txHwptr))]
      txd := .sent (s.dmaRead s.txHwptr) } := by
  rw [runTxDma, txDmaTurn_idle hen _ _ _ hd hk ho, runTxDma]
  rw [txDmaTurn_fetched (s := { s with txd := .fetched (s.dmaRead s.txHwptr) }) hen _ _ _ _ rfl]
  obtain ⟨ks, hks, hrun⟩ := runTxDma_bytes bytes
    { s with
      txd := .addressed (s.dmaRead s.txHwptr) (s.dmaRead (bufWordOf s.cfg s.txHwptr))
        (List.range (s.cfg.len (s.dmaRead s.txHwptr))) (List.replicate (s.cfg.len (s.dmaRead s.txHwptr)) 0#8) }
    _ _ _ _ hen rfl (by rw [List.length_range]; exact hlen)
  rw [fillFrom_range _ _ _ _ (List.length_replicate ..) hks] at hrun
  exact hrun

/-- D4: the slot's word 0 and the pointer (R200, R27). -/
theorem txDmaTurn_sent_result (pick : Nat) (x : Word) (reserved : List (Nat × Word)) (s : State) (w : Word)
    (hen : s.txEnabled = true) (hd : s.txd = .sent w) (hwf : s.mem.wf = true) :
    (txDmaTurn pick x reserved s).txd = .idle ∧ (txDmaTurn pick x reserved s).txKick = s.txKick ∧
      (txDmaTurn pick x reserved s).wireTx = s.wireTx ∧ (txDmaTurn pick x reserved s).cache = s.cache ∧
      (txDmaTurn pick x reserved s).dmaRead s.txHwptr = s.cfg.txDoneWord w x ∧
      (txDmaTurn pick x reserved s).txHwptr = nextPointer s.cfg w s.mac.nptxrBadr s.txHwptr := by
  rw [txDmaTurn_sent _ _ _ _ w hen hd, State.dmaWriteAll_frame]
  refine ⟨rfl, rfl, rfl, rfl, ?_, rfl⟩
  exact Memory.readWord_writeWord _ _ _ _ (State.wf_dmaWriteAll s _ hwf)

/-- Settles O42: D1 to D4, one after another. -/
theorem txDmaSendsTheFrame : Obligations.TxDmaSendsTheFrame := by
  intro s draws hfits hs hen hidle hkick hown hlen
  have hfields := s.cfg.fieldsApart_of_layoutFits hfits
  obtain ⟨d1, rest1, rfl⟩ := List.exists_cons_of_length_pos (l := draws) (by omega)
  obtain ⟨d2, rest2, rfl⟩ := List.exists_cons_of_length_pos (l := rest1) (by simp at hlen; omega)
  obtain ⟨bytes, ⟨pick, x, reserved⟩, rfl⟩ := exists_concat_of_length_pos (l := rest2) (by simp at hlen; omega)
  have hsent := runTxDma_to_sent s d1 d2 bytes hen hidle hkick hown (by simp at hlen; omega)
  have hrun : runTxDma (d1 :: d2 :: (bytes ++ [(pick, x, reserved)])) s =
      txDmaTurn pick x reserved (runTxDma (d1 :: d2 :: bytes) s) :=
    runTxDma_append (d1 :: d2 :: bytes) [(pick, x, reserved)] s
  rw [hrun]
  generalize runTxDma (d1 :: d2 :: bytes) s = u at hsent
  obtain ⟨hd, hk, hwire, hcache, hword, hptr⟩ := txDmaTurn_sent_result pick x reserved u (s.dmaRead s.txHwptr)
    (hsent ▸ hen) (hsent ▸ rfl) (hsent ▸ State.mem_wf_of_storeOk hs)
  have hframe := txDmaTurn_read_of_ne pick x reserved u
  subst hsent
  refine ⟨hd, hk.trans hkick, hwire, ?_, ?_, ?_, hptr, hcache, fun b hres h0 => ?_⟩
  · exact (congrArg s.cfg.own hword).trans (Config.own_txDoneWord hfields _ _)
  · exact (congrArg s.cfg.eor hword).trans (Config.eor_txDoneWord hfields _ _)
  · exact (congrArg s.cfg.len hword).trans (Config.len_txDoneWord hfields _ _)
  · by_contra hne
    rcases (hframe b hne).2 with hin | ⟨k, hk, hin⟩
    · exact h0 hin
    · simp only [Config.reservedWord, Bool.and_eq_true, decide_eq_true_eq, bne_iff_ne] at hk
      exact hres k hk.1.1 hk.2 hin

/-! ## The RX DMA agent -/

theorem runRxDma_append (as bs : List Nat) (s : State) : runRxDma (as ++ bs) s = runRxDma bs (runRxDma as s) := by
  induction as generalizing s with
  | nil => rfl
  | cons d rest ih => exact ih _

section
variable {s : State} (hen : s.rxEnabled = true)
include hen

theorem wireTurn_offered (f : Frame) (hd : s.rxd = .idle) (hlen : f.bytes.length ≤ s.cfg.rxBufSize)
    (ho : s.cfg.own (s.dmaRead s.rxHwptr) = false) :
    wireTurn f s = { s with rxd := .fetched (s.dmaRead s.rxHwptr) f } := by
  simp [wireTurn, hen, hd, hlen, ho]

theorem rxDmaTurn_fetched (pick : Nat) (w : Word) (f : Frame) (hd : s.rxd = .fetched w f) :
    rxDmaTurn pick s = { s with
      rxd := .addressed w f (s.dmaRead (bufWordOf s.cfg s.rxHwptr)) (List.range f.bytes.length) } := by
  simp [rxDmaTurn, hen, hd]

theorem rxDmaTurn_addressed (pick : Nat) (w : Word) (f : Frame) (d : Word) (todo : List Nat)
    (hd : s.rxd = .addressed w f d todo) : rxDmaTurn pick s = rxWriteByte pick w f d todo s := by
  simp [rxDmaTurn, hen, hd]

theorem rxDmaTurn_written (pick : Nat) (w : Word) (f : Frame) (hd : s.rxd = .written w f) :
    rxDmaTurn pick s = { s.dmaWrite s.rxHwptr (s.cfg.rxDeliverWord w f.bytes.length f.status) with
      rxHwptr := nextPointer s.cfg w s.mac.rxrBadr s.rxHwptr, rxd := .idle } := by
  simp [rxDmaTurn, hen, hd]

end

/-- Bytes of a frame written at `d` in the places of a list. -/
def storeFrame (bs : List Byte) (d : Word) (m : Memory) (todo : List Nat) : Memory :=
  todo.foldl (fun n k => n.write (d + BitVec.ofNat 32 k).toNat (bs.getD k 0#8)) m

theorem storeFrame_wf (bs : List Byte) (d : Word) (m : Memory) (todo : List Nat) (hm : m.wf = true) :
    (storeFrame bs d m todo).wf = true := by
  induction todo generalizing m with
  | nil => exact hm
  | cons k rest ih => exact ih _ (Memory.wf_write_word m _ _ hm)

theorem storeFrame_read_other (bs : List Byte) (d : Word) (m : Memory) (todo : List Nat) (b : Nat)
    (hb : ∀ k ∈ todo, b ≠ (d + BitVec.ofNat 32 k).toNat) : (storeFrame bs d m todo).read b = m.read b := by
  induction todo generalizing m with
  | nil => rfl
  | cons k rest ih =>
    exact (ih _ fun j hj => hb j (List.mem_cons_of_mem _ hj)).trans
      (Memory.read_write_other m _ b _ (hb k (List.mem_cons_self ..)))

/-- The places of a frame have different addresses. -/
theorem place_inj (d : Word) {j k : Nat} (hj : j < 2 ^ 32) (hk : k < 2 ^ 32)
    (h : (d + BitVec.ofNat 32 j).toNat = (d + BitVec.ofNat 32 k).toNat) : j = k := by
  have := d.isLt
  rw [BitVec.toNat_add, BitVec.toNat_add, BitVec.toNat_ofNat, BitVec.toNat_ofNat] at h
  omega

theorem storeFrame_read_same (bs : List Byte) (d : Word) (m : Memory) (todo : List Nat) (hm : m.wf = true)
    (hlt : ∀ k ∈ todo, k < 2 ^ 32) (k : Nat) (hk : k ∈ todo) :
    (storeFrame bs d m todo).read (d + BitVec.ofNat 32 k).toNat = bs.getD k 0#8 := by
  induction todo generalizing m with
  | nil => simp at hk
  | cons j rest ih =>
    by_cases hr : k ∈ rest
    · exact ih _ (Memory.wf_write_word m _ _ hm) (fun i hi => hlt i (List.mem_cons_of_mem _ hi)) hr
    · obtain rfl : k = j := (List.mem_cons.mp hk).resolve_right hr
      refine (storeFrame_read_other bs d _ rest _ fun i hi he => hr ?_).trans (Memory.read_write_word m _ _ hm)
      rwa [place_inj d (hlt k hk) (hlt i (List.mem_cons_of_mem _ hi)) he]

/-- E3 with any draws: each byte is written once. -/
theorem runRxDma_bytes (picks : List Nat) (s : State) (w : Word) (f : Frame) (d : Word) (todo : List Nat)
    (hen : s.rxEnabled = true) (hd : s.rxd = .addressed w f d todo) (hlen : picks.length = max todo.length 1) :
    ∃ ks, ks.Perm todo ∧
      runRxDma picks s = { s with mem := storeFrame f.bytes d s.mem ks, rxd := .written w f } := by
  induction picks generalizing s todo with
  | nil => simp only [List.length_nil] at hlen; omega
  | cons p rest ih =>
    rw [runRxDma, rxDmaTurn_addressed hen _ w f d todo hd]
    cases todo with
    | nil =>
      obtain rfl : rest = [] := List.length_eq_zero_iff.mp (by simpa using hlen)
      exact ⟨[], .nil, rfl⟩
    | cons k ks =>
      obtain ⟨x, more, ht, hperm, -⟩ := takePick_cons p k ks
      rw [rxWriteByte, ht]
      have hmore : more.length = ks.length := by simpa using hperm.length_eq
      have hrest : rest.length = ks.length := by simp at hlen; omega
      cases more with
      | nil =>
        obtain rfl : rest = [] := List.length_eq_zero_iff.mp (hrest.trans hmore.symm)
        exact ⟨[x], hperm, rfl⟩
      | cons y ys =>
        obtain ⟨js, hjs, hrun⟩ := ih
          { s with
            mem := s.mem.write (d + BitVec.ofNat 32 x).toNat (f.bytes.getD x 0#8)
            rxd := .addressed w f d (y :: ys) }
          (y :: ys) hen rfl (by rw [hrest, ← hmore, List.length_cons]; omega)
        exact ⟨x :: js, (hjs.cons x).trans hperm, hrun⟩

/-- E1 to E3 with any draws. -/
theorem runRxDma_to_written (s : State) (f : Frame) (pick : Nat) (bytes : List Nat) (hen : s.rxEnabled = true)
    (hd : s.rxd = .idle) (hf : f.bytes.length ≤ s.cfg.rxBufSize) (ho : s.cfg.own (s.dmaRead s.rxHwptr) = false)
    (hlen : bytes.length = max f.bytes.length 1) :
    ∃ ks, ks.Perm (List.range f.bytes.length) ∧ runRxDma (pick :: bytes) (wireTurn f s) = { s with
      mem := storeFrame f.bytes (s.dmaRead (bufWordOf s.cfg s.rxHwptr)) s.mem ks
      rxd := .written (s.dmaRead s.rxHwptr) f } := by
  rw [wireTurn_offered hen f hd hf ho, runRxDma]
  rw [rxDmaTurn_fetched (s := { s with rxd := .fetched (s.dmaRead s.rxHwptr) f }) hen _ _ _ rfl]
  exact runRxDma_bytes bytes
    { s with
      rxd := .addressed (s.dmaRead s.rxHwptr) f (s.dmaRead (bufWordOf s.cfg s.rxHwptr)) (List.range f.bytes.length) }
    _ _ _ _ hen rfl (by rw [List.length_range]; exact hlen)

/-- E4: the slot's word 0 and the pointer (R230, R27). -/
theorem rxDmaTurn_written_result (pick : Nat) (s : State) (w : Word) (f : Frame) (hen : s.rxEnabled = true)
    (hd : s.rxd = .written w f) (hwf : s.mem.wf = true) :
    (rxDmaTurn pick s).rxd = .idle ∧ (rxDmaTurn pick s).cache = s.cache ∧
      (rxDmaTurn pick s).dmaRead s.rxHwptr = s.cfg.rxDeliverWord w f.bytes.length f.status ∧
      (rxDmaTurn pick s).rxHwptr = nextPointer s.cfg w s.mac.rxrBadr s.rxHwptr ∧
      ∀ b, ¬ inRange (s.rxHwptr, 4) b → (rxDmaTurn pick s).mem.read b = s.mem.read b := by
  rw [rxDmaTurn_written hen _ w f hd]
  exact ⟨rfl, rfl, Memory.readWord_writeWord _ _ _ _ hwf, rfl, fun b hb => dmaWrite_read_other s _ _ b hb⟩

theorem Config.FieldsApart.lenMax_lt {c : Config} (h : c.FieldsApart) : c.lenMax < 2 ^ 32 := by
  have hle := Nat.pow_le_pow_right (show 0 < 2 by decide) (h.len_le_own.trans h.own_lt.le)
  have hpos := Nat.two_pow_pos c.layout.lenBits
  rw [Config.lenMax]
  omega

/-- Settles O48: E1 to E4, one after another. -/
theorem rxDmaDelivers : Obligations.RxDmaDelivers := by
  intro s f picks hfits hs hmax hen hidle hlen hown hapart hpicks
  have hfields := s.cfg.fieldsApart_of_layoutFits hfits
  have hn : f.bytes.length ≤ s.cfg.lenMax := hlen.trans hmax
  have hlt (k : Nat) (hk : k < f.bytes.length) : k < 2 ^ 32 := by
    have := Config.FieldsApart.lenMax_lt hfields
    omega
  obtain ⟨p1, rest1, rfl⟩ := List.exists_cons_of_length_pos (l := picks) (by omega)
  obtain ⟨bytes, pick, rfl⟩ := exists_concat_of_length_pos (l := rest1) (by simp at hpicks; omega)
  obtain ⟨ks, hks, hwritten⟩ := runRxDma_to_written s f p1 bytes hen hidle hlen hown (by simp at hpicks; omega)
  have hrun : runRxDma (p1 :: (bytes ++ [pick])) (wireTurn f s) =
      rxDmaTurn pick (runRxDma (p1 :: bytes) (wireTurn f s)) := runRxDma_append (p1 :: bytes) [pick] _
  have hmem (k : Nat) : k ∈ ks ↔ k < f.bytes.length := hks.mem_iff.trans List.mem_range
  have hwf := State.mem_wf_of_storeOk hs
  rw [hrun]
  generalize runRxDma (p1 :: bytes) (wireTurn f s) = u at hwritten
  obtain ⟨hd, hcache, hword, hptr, hframe⟩ := rxDmaTurn_written_result pick u (s.dmaRead s.rxHwptr) f
    (hwritten ▸ hen) (hwritten ▸ rfl) (hwritten ▸ storeFrame_wf f.bytes _ _ ks hwf)
  subst hwritten
  refine ⟨hd, fun k hk => ?_, ?_, ?_, ?_, hptr, hcache, fun b hbuf h0 => ?_⟩
  · exact (hframe _ (hapart k hk)).trans
      (storeFrame_read_same _ _ _ ks hwf (fun j hj => hlt j ((hmem j).mp hj)) k ((hmem k).mpr hk))
  · exact (congrArg s.cfg.own hword).trans (Config.own_rxDeliverWord hfields _ _ _)
  · exact (congrArg s.cfg.eor hword).trans (Config.eor_rxDeliverWord hfields _ _ hn)
  · exact (congrArg s.cfg.len hword).trans (Config.len_rxDeliverWord hfields _ _ hn)
  · exact (hframe b h0).trans
      (storeFrame_read_other _ _ _ ks b fun k hk he => hbuf ⟨k, (hmem k).mp hk, he⟩)

end Sys2Proof.Machine


/-! PROOFS. What a step that writes no word of the rings makes of them (R168 to R170, R160, R162): lines are written back,
dropped and filled, so each word settles to what memory or the CPU side had; and which lines a step makes dirty. -/

namespace Sys2Proof.Machine

/-! ## Words that nobody writes -/

/-- A word in a step that writes none of its line: untouched; written back where its line was dirty; or seen as memory has
it, dirty data being lost only if `drop` holds. -/
def Cell.Settles (drop : Prop) (p q : Cell) : Prop :=
  q = p ∨ (p.dirty = true ∧ q = .clean p.view) ∨ ((p.dirty = true → drop) ∧ q = .clean p.ram)

theorem Cell.Settles.refl (drop : Prop) (p : Cell) : Cell.Settles drop p p := .inl rfl

theorem Cell.Settles.of_eq {drop : Prop} {p q : Cell} (h : q = p) : Cell.Settles drop p q := .inl h

theorem Cell.Settles.trans {drop : Prop} {p q r : Cell} (h : Cell.Settles drop p q) (h' : Cell.Settles drop q r) :
    Cell.Settles drop p r := by
  rcases h with rfl | ⟨hd, rfl⟩ | ⟨hd, rfl⟩
  · exact h'
  · rcases h' with rfl | ⟨-, rfl⟩ | ⟨-, rfl⟩ <;> exact .inr (.inl ⟨hd, rfl⟩)
  · rcases h' with rfl | ⟨-, rfl⟩ | ⟨-, rfl⟩ <;> exact .inr (.inr ⟨hd, rfl⟩)

theorem Cell.Settles.mono {drop drop' : Prop} {p q : Cell} (h : Cell.Settles drop p q) (hd : drop → drop') :
    Cell.Settles drop' p q := h.imp id (Or.imp id fun ⟨h1, h2⟩ => ⟨fun e => hd (h1 e), h2⟩)

theorem Cell.settles_flush (drop : Prop) (p : Cell) : Cell.Settles drop p p.flush := by
  unfold Cell.flush
  cases hd : p.dirty with
  | true => exact .inr (.inl ⟨hd, rfl⟩)
  | false => exact .inr (.inr ⟨fun h => by simp [hd] at h, rfl⟩)

/-- Whatever holds of a word on both sides holds of it after it has settled. -/
theorem Cell.Settles.both {drop : Prop} {p q : Cell} (h : Cell.Settles drop p q) {P : Word → Prop} (hr : P p.ram)
    (hv : P p.view) : P q.ram ∧ P q.view := by
  rcases h with rfl | ⟨-, rfl⟩ | ⟨-, rfl⟩
  exacts [⟨hr, hv⟩, ⟨hv, hv⟩, ⟨hr, hr⟩]

theorem Cell.Settles.dirty {drop : Prop} {p q : Cell} (h : Cell.Settles drop p q) (hq : q.dirty = true) : q = p := by
  rcases h with rfl | ⟨-, rfl⟩ | ⟨-, rfl⟩
  · rfl
  · cases hq
  · cases hq

/-- Memory changes under a word: the CPU side goes on seeing its copy, or has none. -/
def Cell.Overwrites (v : Word) (p q : Cell) : Prop := q = { p with ram := v } ∨ (p = .clean p.ram ∧ q = .clean v)

theorem Cell.Overwrites.both {v : Word} {p q : Cell} (h : Cell.Overwrites v p q) {P : Word → Prop} (hv : P v)
    (hp : P p.view) : P q.ram ∧ P q.view := by
  rcases h with rfl | ⟨-, rfl⟩
  exacts [⟨hv, hp⟩, ⟨hv, hv⟩]

theorem Cell.Overwrites.ram {v : Word} {p q : Cell} (h : Cell.Overwrites v p q) : q.ram = v := by
  rcases h with rfl | ⟨-, rfl⟩ <;> rfl

theorem Cell.Overwrites.dirty {v : Word} {p q : Cell} (h : Cell.Overwrites v p q) : q.dirty = p.dirty := by
  rcases h with rfl | ⟨hp, rfl⟩
  · rfl
  · rw [hp]
    rfl

/-- Every word of the store settles. -/
def Store.Settled (c : Config) (drop : Prop) (x y : Store) : Prop :=
  ∀ a : Word, a.toNat % 4 = 0 → Cell.Settles drop (x.cell c a) (y.cell c a)

namespace Store.Settled

variable {c : Config} {drop : Prop} {x y z : Store}

theorem refl (c : Config) (drop : Prop) (x : Store) : Store.Settled c drop x x := fun _ _ => .refl ..

theorem trans (h : Store.Settled c drop x y) (h' : Store.Settled c drop y z) : Store.Settled c drop x z :=
  fun a ha => (h a ha).trans (h' a ha)

theorem mono {drop' : Prop} (h : Store.Settled c drop x y) (hd : drop → drop') : Store.Settled c drop' x y :=
  fun a ha => (h a ha).mono hd

theorem afterRead (x : Store) (a : Word) : Store.Settled c drop x (x.afterRead c a) :=
  fun _ _ => .of_eq (Store.cell_afterRead ..)

theorem invalidate (x : Store) (l : Nat) (hd : drop) : Store.Settled c drop x (x.invalidateLine l) := by
  intro a _
  by_cases h : c.lineOf a.toNat = l
  · subst h
    exact .inr (.inr ⟨fun _ => hd, Store.cell_invalidateLine_same c a x⟩)
  · exact .of_eq (Store.cell_invalidateLine_other c a x h)

end Store.Settled

theorem Cache.mod_of_get (line lo : Nat) (c : Cache) (a : Nat) (l : CacheLine) (hc : Cache.wfFrom line lo c = true)
    (h : c.get a = some l) : a % line = 0 := by
  induction c generalizing lo with
  | nil => simp at h
  | cons d rest ih =>
    obtain ⟨k, x⟩ := d
    simp only [Cache.wfFrom, Bool.and_eq_true, decide_eq_true_eq] at hc
    rw [Cache.get_cons] at h
    split at h
    · subst_vars
      exact hc.1.1.2
    · exact ih (k + 1) hc.2 h

section
variable {c : Config} (hf : c.Flat) {x : Store} (hx : x.Ok c)
include hf hx

/-- A Flush of any line, also of a number that is no line's address. -/
theorem Store.cell_flushLine (a : Word) (l : Nat) :
    (x.flushLine c l).cell c a = if c.lineOf a.toNat = l then (x.cell c a).flush else x.cell c a := by
  cases hl : x.cache.get l with
  | none =>
    have hsame : x.flushLine c l = x := by rw [Store.flushLine, hl]
    rw [hsame]
    split
    · next h =>
      have hclean : x.cell c a = .clean (x.cell c a).ram := by
        rw [Store.cell, Store.side_of_none (h ▸ hl)]
        rfl
      rw [hclean, Cell.flush_clean]
    · rfl
  | some y =>
    have hwf := ((Store.wf_iff c x).mp hx.wf).2
    split
    · next h => exact h ▸ Store.cell_flushLine_same hf hx a
    · next h =>
      exact Store.cell_flushLine_other hf hx a (Cache.mod_of_get _ 0 _ l y hwf hl) (Cache.lt_of_get _ 0 _ l y hwf hl) h

theorem Store.Settled.flush (drop : Prop) (l : Nat) : Store.Settled c drop x (x.flushLine c l) := by
  intro a _
  rw [Store.cell_flushLine hf hx]
  split
  · exact Cell.settles_flush drop _
  · exact .refl ..

end

theorem Store.Settled.lineOp {c : Config} (hf : c.Flat) {x : Store} (hx : x.Ok c) {drop : Prop} (o : LineOp) (l : Nat)
    (hd : o = .invalidate → drop) : Store.Settled c drop x (o.store c x l) := by
  cases o with
  | flush => exact .flush hf hx drop l
  | invalidate => exact .invalidate x l (hd rfl)

/-! ## Dirty lines -/

/-- The line is Valid and dirty. -/
def Store.dirtyAt (x : Store) (l : Nat) : Bool :=
  match x.cache.get l with
  | some y => y.dirty
  | none => false

theorem State.lineDirty_eq (s : State) (l : Nat) : s.lineDirty l = s.store.dirtyAt l := rfl

theorem Store.copyAt_dirty (c : Config) (x : Store) (l : Nat) : (x.copyAt c l).dirty = x.dirtyAt l := by
  unfold Store.dirtyAt
  cases h : x.cache.get l with
  | none => rw [Store.copyAt_of_none h]
  | some y => rw [Store.copyAt_of_some h]

/-- No line becomes dirty but lines of `L`. -/
def Store.Soils (L : List Nat) (x y : Store) : Prop := ∀ l, y.dirtyAt l = true → x.dirtyAt l = true ∨ l ∈ L

namespace Store.Soils

variable {L K : List Nat} {x y z : Store}

theorem of_cache_eq (h : y.cache = x.cache) : Store.Soils L x y := fun l hl => .inl (by
  rwa [Store.dirtyAt, h] at hl)

theorem trans (h : Store.Soils L x y) (h' : Store.Soils L y z) : Store.Soils L x z :=
  fun l hl => (h' l hl).elim (h l) .inr

theorem mono (h : Store.Soils K x y) (hK : ∀ l ∈ K, l ∈ L) : Store.Soils L x y := fun l hl => (h l hl).imp id (hK l)

theorem afterRead (c : Config) (x : Store) (a : Word) : Store.Soils L x (x.afterRead c a) := by
  intro l hl
  rw [← Store.copyAt_dirty c, Store.copyAt] at hl
  left
  have hside := congrArg Side.copy (x.side_afterRead c a l)
  rw [← Store.copyAt_dirty c, ← show (x.afterRead c a).copyAt c l = x.copyAt c l from hside]
  exact hl

theorem cpuWrite (c : Config) (x : Store) (a v : Word) (ha : c.lineOf a.toNat ∈ L) :
    Store.Soils L x (x.cpuWrite c a v) := by
  cases hc : c.coherent with
  | true => exact of_cache_eq (Store.cpuWrite_cache_coherent c a v x hc)
  | false =>
    intro l hl
    by_cases h : l = c.lineOf a.toNat
    · exact .inr (h ▸ ha)
    · rw [Store.dirtyAt, Store.cpuWrite_get_other c a v l x hc h] at hl
      exact .inl hl

theorem cpuWriteAll (c : Config) (x : Store) (ws : List (Word × Word)) (hws : ∀ w ∈ ws, c.lineOf w.1.toNat ∈ L) :
    Store.Soils L x (x.cpuWriteAll c ws) := by
  induction ws generalizing x with
  | nil => exact of_cache_eq rfl
  | cons w rest ih =>
    exact (cpuWrite c x w.1 w.2 (hws w (List.mem_cons_self ..))).trans
      (ih _ fun u hu => hws u (List.mem_cons_of_mem _ hu))

theorem lineOp (c : Config) (x : Store) (o : LineOp) (k : Nat) : Store.Soils L x (o.store c x k) := by
  intro l hl
  by_cases h : l = k
  · rw [Store.dirtyAt, h, o.get_store_same] at hl
    cases hl
  · rw [Store.dirtyAt, o.get_store_other c x h] at hl
    exact .inl hl

end Store.Soils

theorem LineOp.not_dirty (o : LineOp) (c : Config) (x : Store) (l : Nat) : (o.store c x l).dirtyAt l = false := by
  rw [Store.dirtyAt, o.get_store_same]

/-- No line is dirty when DMA is coherent. -/
theorem Store.not_dirty_of_coherent {c : Config} {x : Store} (hx : x.Ok c) (h : c.coherent = true) (l : Nat) :
    x.dirtyAt l = false := by
  rw [Store.dirtyAt, hx.empty h, Cache.get_nil]

/-! ## The cache agent (R168 to R170) -/

section
variable {s : State} (a : Word)

theorem cacheWriteBackTurn_soils (keep : Bool) : Store.Soils [] s.store (cacheWriteBackTurn a keep s).store := by
  intro l hl
  refine .inl ?_
  by_cases h : l = s.cfg.lineOf a.toNat
  · unfold cacheWriteBackTurn at hl
    split at hl
    · exact hl
    · split at hl
      · next y hy =>
        split at hl
        · cases keep
          · rw [Store.dirtyAt, h] at hl
            change (match (s.cache.drop (lineAt s.cfg a)).get (lineAt s.cfg a) with
              | some y => y.dirty
              | none => false) = true at hl
            rw [Cache.get_drop_same] at hl
            cases hl
          · rw [Store.dirtyAt, h] at hl
            change (match (s.cache.put (lineAt s.cfg a) ⟨y.bytes, false⟩).get (lineAt s.cfg a) with
              | some y => y.dirty
              | none => false) = true at hl
            rw [Cache.get_put_same] at hl
            cases hl
        · exact hl
      · exact hl
  · rw [Store.dirtyAt] at hl ⊢
    have hget := (cache_turn_get_other s a l keep h).1
    change (cacheWriteBackTurn a keep s).store.cache.get l = s.store.cache.get l at hget
    rwa [hget] at hl

theorem cacheFillTurn_side (k : Nat) : (cacheFillTurn a s).store.side s.cfg k = s.store.side s.cfg k := by
  unfold cacheFillTurn
  split
  · rfl
  · exact s.store.side_fill s.cfg _ k

theorem cacheFillTurn_settled : Store.Settled s.cfg False s.store (cacheFillTurn a s).store := fun b _ =>
  .of_eq (by rw [Store.cell, cacheFillTurn_side]; rfl)

theorem cacheFillTurn_soils : Store.Soils [] s.store (cacheFillTurn a s).store := fun l hl => .inl (by
  rw [← Store.copyAt_dirty s.cfg, ← show (cacheFillTurn a s).store.copyAt s.cfg l = s.store.copyAt s.cfg l from
    congrArg Side.copy (cacheFillTurn_side a l), Store.copyAt_dirty]
  exact hl)

theorem cacheDropTurn_soils : Store.Soils [] s.store (cacheDropTurn a s).store := by
  unfold cacheDropTurn
  split
  · exact .of_cache_eq rfl
  · split
    · split
      · exact .of_cache_eq rfl
      · exact .lineOp s.cfg s.store .invalidate (lineAt s.cfg a)
    · exact .of_cache_eq rfl

/-- A dropped line was clean. -/
theorem cacheDropTurn_settled : Store.Settled s.cfg False s.store (cacheDropTurn a s).store := by
  unfold cacheDropTurn
  split
  · exact .refl _ _ _
  · split
    · next y hy =>
      split
      · exact .refl _ _ _
      · next hd =>
        intro b _
        by_cases h : s.cfg.lineOf b.toNat = lineAt s.cfg a
        · refine .inr (.inr ⟨fun hdirty => hd ?_, ?_⟩)
          · rwa [Store.cell_dirty, h, Store.copyAt_of_some (x := s.store) hy] at hdirty
          · exact h ▸ Store.cell_invalidateLine_same s.cfg b s.store
        · exact .of_eq (Store.cell_invalidateLine_other s.cfg b s.store h)
    · exact .refl _ _ _

/-- A write-back is a Flush of the line, but that the clean copy may stay. -/
theorem cacheWriteBackTurn_settled (keep : Bool) (hf : s.cfg.Flat) (hx : s.store.Ok s.cfg) :
    Store.Settled s.cfg False s.store (cacheWriteBackTurn a keep s).store := by
  unfold cacheWriteBackTurn
  split
  · exact .refl _ _ _
  · split
    · next y hy =>
      split
      · next hd =>
        have hl := s.cfg.lineOf_mod a.toNat
        have hb := s.cfg.lineOf_lt a
        have hflush : s.store.flushLine s.cfg (lineAt s.cfg a) =
            ⟨s.mem.writeBytes (s.cfg.toDma (BitVec.ofNat 32 (lineAt s.cfg a))) y.bytes, s.cache.drop (lineAt s.cfg a)⟩ := by
          rw [Store.flushLine, show s.store.cache.get (lineAt s.cfg a) = some y from hy]
          simp only [hd, if_true]
          rfl
        have hsettled := Store.Settled.flush hf hx False (lineAt s.cfg a)
        cases keep with
        | false =>
          rw [hflush] at hsettled
          exact hsettled
        | true =>
          intro b hb4
          have hb' := hsettled b hb4
          rw [hflush] at hb'
          refine Eq.subst (motive := fun p => Cell.Settles False _ p) (congrArg (Side.cell s.cfg b) ?_) hb'
          by_cases h : s.cfg.lineOf b.toNat = lineAt s.cfg a
          · have hlen := Cache.length_of_wf _ _ _ _ ((Store.wf_iff _ _).mp hx.wf).2 hy
            have hbytes := lineBytes_writeBytes_same hf hx.wf hl hb hlen
            rw [h]
            refine congrArg (Side.mk _) ?_
            rw [Store.copyAt_of_none (Cache.get_drop_same _ _), Store.copyAt_of_some (Cache.get_put_same _ _ _)]
            exact congrArg (CacheLine.mk · false) hbytes
          · refine (Store.side_eq_of (x := ⟨_, s.cache.drop (lineAt s.cfg a)⟩)
              (y := ⟨_, s.cache.put (lineAt s.cfg a) ⟨y.bytes, false⟩⟩) rfl ?_).symm
            exact (Cache.get_put_other _ _ _ _ h).trans (Cache.get_drop_other _ _ _ h).symm
      · exact .refl _ _ _
    · exact .refl _ _ _

end

end Sys2Proof.Machine


/-! PROOFS. What a phase of a command makes of the words of the rings, outside the phases that rebuild them: a few writes of
its own, and for the rest lines that settle (20_memory.md R79 to R82, 42_tx.md R182, 43_rx.md R212, 40_ring.md R144). -/

namespace Sys2Proof.Machine

/-! ## Steps that write no word of the CPU side -/

/-- Nothing is written: lines are filled, written back or dropped. -/
structure Store.Rests (c : Config) (drop : Prop) (x y : Store) : Prop where
  settled : Store.Settled c drop x y
  soils : Store.Soils [] x y

namespace Store.Rests

variable {c : Config} {drop : Prop} {x y z : Store}

theorem refl (c : Config) (drop : Prop) (x : Store) : Store.Rests c drop x x := ⟨.refl c drop x, .of_cache_eq rfl⟩

theorem trans (h : Store.Rests c drop x y) (h' : Store.Rests c drop y z) : Store.Rests c drop x z :=
  ⟨h.settled.trans h'.settled, h.soils.trans h'.soils⟩

theorem mono {drop' : Prop} (h : Store.Rests c drop x y) (hd : drop → drop') : Store.Rests c drop' x y :=
  ⟨h.settled.mono hd, h.soils⟩

theorem afterRead (x : Store) (a : Word) : Store.Rests c drop x (x.afterRead c a) :=
  ⟨.afterRead x a, .afterRead c x a⟩

theorem lineOp (hf : c.Flat) (hx : x.Ok c) (o : LineOp) (l : Nat) (hd : o = .invalidate → drop) :
    Store.Rests c drop x (o.store c x l) := ⟨.lineOp hf hx o l hd, .lineOp c x o l⟩

end Store.Rests

section
variable {o : LineOp} {todo rest : List Nat} {s u : State}

theorem OneLine.store (h : OneLine o todo rest s u) :
    ∃ l, (l :: rest).Perm todo ∧ u = s.withStore (o.store s.cfg s.store l) := by
  obtain ⟨-, l, hl, rfl⟩ := h
  exact ⟨l, hl, o.act_eq s l⟩

theorem LastLine.store (h : LastLine o todo s u) :
    (todo = [] ∧ u = s) ∨ ∃ l, todo = [l] ∧ u = s.withStore (o.store s.cfg s.store l) := by
  rcases h with h | ⟨l, hl, rfl⟩
  · exact .inl h
  · exact .inr ⟨l, hl, o.act_eq s l⟩

variable {drop : Prop} (hf : s.cfg.Flat) (hx : s.store.Ok s.cfg) (hd : o = .invalidate → drop)
include hf hx hd

theorem OneLine.rests (h : OneLine o todo rest s u) : Store.Rests s.cfg drop s.store u.store := by
  obtain ⟨l, -, rfl⟩ := h.store
  exact .lineOp hf hx o l hd

theorem LastLine.rests (h : LastLine o todo s u) : Store.Rests s.cfg drop s.store u.store := by
  rcases h.store with ⟨-, rfl⟩ | ⟨l, -, rfl⟩
  · exact .refl _ _ _
  · exact .lineOp hf hx o l hd

theorem LastLine.rests_read (h : LastLine o todo s u) (a : Word) :
    Store.Rests s.cfg drop s.store (u.memReadState a).store :=
  (h.rests hf hx hd).trans (h.cfg_eq ▸ .afterRead _ _)

end

theorem RxAtP2.rests {drop : Prop} {s v : State} {n : Nat} {b : Word} {todo : List Nat} (h : RxAtP2 s v n b todo) :
    Store.Rests s.cfg drop s.store v.store := by
  rcases h with ⟨-, rfl⟩ | ⟨w, -, -, -, -, rfl⟩
  · exact .refl _ _ _
  · exact .afterRead _ _

theorem RxAtP2.cfg_eq {s v : State} {n : Nat} {b : Word} {todo : List Nat} (h : RxAtP2 s v n b todo) :
    v.cfg = s.cfg := by
  obtain ⟨m, x, rfl⟩ := h.frame
  rfl

theorem LineOp.flush_ne {P : Prop} (h : LineOp.flush = .invalidate) : P := by cases h

/-! ## One word written by the CPU side -/

/-- The word after a CPU-side write (R79, R81). -/
def Cell.wrote (coherent : Bool) (v : Word) (p : Cell) : Cell := if coherent then .clean v else ⟨p.ram, v, true⟩

/-- One word is written by the CPU side, and lines settle. -/
def Store.Writes (c : Config) (a v : Word) (x y : Store) : Prop :=
  ∃ x' : Store, (∀ b, x'.cell c b = x.cell c b) ∧ Store.Soils [] x x' ∧ x'.Ok c ∧
    Store.Rests c False (x'.cpuWrite c a v) y

namespace Store.Writes

variable {c : Config} {a v : Word} {x y z : Store}

theorem of_write (hx : x.Ok c) (a v : Word) : Store.Writes c a v x (x.cpuWrite c a v) :=
  ⟨x, fun _ => rfl, .of_cache_eq rfl, hx, .refl _ _ _⟩

/-- A read-modify-write. -/
theorem of_update (hx : x.Ok c) (a b v : Word) : Store.Writes c a v x ((x.afterRead c b).cpuWrite c a v) :=
  ⟨x.afterRead c b, fun _ => Store.cell_afterRead .., .afterRead c x b, hx.afterRead b, .refl _ _ _⟩

theorem rests (h : Store.Writes c a v x y) (h' : Store.Rests c False y z) : Store.Writes c a v x z := by
  obtain ⟨x', h1, h2, h3, h4⟩ := h
  exact ⟨x', h1, h2, h3, h4.trans h'⟩

theorem soils (h : Store.Writes c a v x y) : Store.Soils [c.lineOf a.toNat] x y := by
  obtain ⟨x', -, h2, -, h4⟩ := h
  exact (h2.mono (by simp)).trans ((Store.Soils.cpuWrite c x' a v (by simp)).trans (h4.soils.mono (by simp)))

variable (hf : c.Flat) (ha : a.toNat % 4 = 0) (h : Store.Writes c a v x y)
include hf ha h

theorem same : Cell.Settles False ((x.cell c a).wrote c.coherent v) (y.cell c a) := by
  obtain ⟨x', h1, -, h3, h4⟩ := h
  have := h4.settled a ha
  rwa [Store.cell_cpuWrite_same hf h3 a v ha, h1] at this

/-- Another word settles, in a dirty line when it shares the written word's. -/
theorem other {b : Word} (hb : b.toNat % 4 = 0) (hab : b ≠ a) :
    ∃ p, (p = x.cell c b ∨ (c.coherent = false ∧ c.lineOf b.toNat = c.lineOf a.toNat ∧ p = (x.cell c b).soil)) ∧
      Cell.Settles False p (y.cell c b) := by
  obtain ⟨x', h1, -, h3, h4⟩ := h
  have hs := h4.settled b hb
  rw [Store.cell_cpuWrite_other hf h3 b a v hb ha hab, h1] at hs
  refine ⟨_, ?_, hs⟩
  split
  · next hc => exact .inr ⟨hc.1, hc.2, rfl⟩
  · exact .inl rfl

theorem apart {b : Word} (hb : b.toNat % 4 = 0) (hab : c.lineOf b.toNat ≠ c.lineOf a.toNat) :
    Cell.Settles False (x.cell c b) (y.cell c b) := by
  obtain ⟨p, rfl | ⟨-, hl, -⟩, hs⟩ := h.other hf ha hb fun e => hab (e ▸ rfl)
  · exact hs
  · exact absurd hl hab

/-- What holds of another word on both sides goes on holding. -/
theorem other_both {b : Word} (hb : b.toNat % 4 = 0) (hab : b ≠ a) {P : Word → Prop} (hr : P (x.cell c b).ram)
    (hv : P (x.cell c b).view) : P (y.cell c b).ram ∧ P (y.cell c b).view := by
  obtain ⟨p, rfl | ⟨-, -, rfl⟩, hs⟩ := h.other hf ha hb hab
  · exact hs.both hr hv
  · exact hs.both hr hv

theorem same_both {P : Word → Prop} (hr : P (x.cell c a).ram) (hv : P v) :
    P (y.cell c a).ram ∧ P (y.cell c a).view := by
  refine (h.same hf ha).both ?_ ?_ <;> unfold Cell.wrote <;> split
  exacts [hv, hr, hv, hv]

end Store.Writes

/-! ## The words that the commands write -/

/-- Word `k` of slot `j` of ring `r`, and what the next phase of a command writes there, outside RING_INIT's phases. -/
inductive SoftwareWrite (i : Instr) (s : State) : Ring → Nat → Nat → Word → Prop
  | address {w} (h : s.phase = .txT2 w) : SoftwareWrite i s .tx s.txCur s.cfg.bufWord (s.cfg.toDma s.arg0)
  | word0 {w} (h : s.phase = .txT4 w) : SoftwareWrite i s .tx s.txCur 0 (s.cfg.txWord0 w s.txLen)
  | release (h : s.phase = .rxL2) :
      SoftwareWrite i s .rx s.rxOutSlot 0 (s.cfg.releaseWord (s.memRead s.releaseSlot))
  | mark {r k} (hi : i = .ringMarkEnd r k) (h : s.phase = .markM2) :
      SoftwareWrite i s r k 0 (s.cfg.markWord (s.memRead (s.cfg.wordAddr r k 0)))

/-- The phases of RING_INIT and of DEV_START that write whole rings, start a MAC reset or set the DMA pointers. -/
def rebuilding : Phase → Bool
  | .ringInit _ => true
  | .devS3 => true
  | .devS6 _ => true
  | .devS7 _ => true
  | .devS9 => true
  | _ => false

/-- A phase writes none of the words of the rings, or one of them; dirty data is discarded only while the command has none
of its own to flush. -/
inductive StoreEffect (i : Instr) (s : State) (y : Store) : Prop
  | rests (h : Store.Rests s.cfg (s.unflushed = []) s.store y)
  | writes {r j k v} (hw : SoftwareWrite i s r j k v) (h : Store.Writes s.cfg (s.cfg.wordAddr r j k) v s.store y)

theorem StoreEffect.nothing {i : Instr} {s t : State} (h : t.store = s.store) : StoreEffect i s t.store :=
  .rests (h ▸ .refl _ _ _)

theorem StoreEffect.of_rests {i : Instr} {s u t : State} (h : Store.Rests s.cfg (s.unflushed = []) s.store u.store)
    (ht : t.store = u.store := by rfl) : StoreEffect i s t.store := .rests (ht ▸ h)

/-- A command between its phases or before its first. -/
def Placed (i : Instr) (s : State) : Prop := later i s.phase = true ∨ s.phase = .first

theorem Free.placed {i : Instr} {s : State} (h : Free i s) (hs : s.seqOk = true) : Placed i s :=
  (h.cases hs).imp And.left And.left

/-- A command that enters a Flush or an Invalidate does so at its first phase. -/
theorem Placed.first {i : Instr} {s : State} (h : Placed i s) (hl : later i s.phase = false) : s.phase = .first :=
  h.resolve_left (by simp [hl])

theorem unflushed_of_first {s : State} (h : s.phase = .first) : s.unflushed = [] := by rw [State.unflushed, h]

theorem TxAtT1.unflushed {s : State} {todo : List Nat} (h : TxAtT1 s todo) (hp : Placed .txSubmit s) :
    s.unflushed = [] := by
  rcases h with h | ⟨hl, -⟩
  · rw [State.unflushed, h]
  · exact unflushed_of_first (hp.first hl)

theorem RxAtP1.unflushed {s : State} {todo : List Nat} (h : RxAtP1 s todo) (hp : Placed .rxPoll s) :
    s.unflushed = [] := by
  rcases h with h | ⟨hl, -⟩
  · rw [State.unflushed, h]
  · exact unflushed_of_first (hp.first hl)

theorem RxAtP2.unflushed {s v : State} {n : Nat} {b : Word} {todo : List Nat} (h : RxAtP2 s v n b todo) :
    s.unflushed = [] := by
  rcases h with ⟨h, -⟩ | ⟨w, h, -⟩ <;> rw [State.unflushed, h]

theorem RxAtL2.effect {s v u : State} {todo : List Nat} (h : RxAtL2 s v todo) (hx : s.store.Ok s.cfg)
    (hu : Store.Rests s.cfg False v.store u.store) : StoreEffect .rxRelease s u.store := by
  rcases h with ⟨-, rfl⟩ | ⟨hp, -, rfl⟩
  · exact .rests (hu.mono False.elim)
  · have hw : Store.Writes s.cfg s.releaseSlot (s.cfg.releaseWord (s.memRead s.releaseSlot)) s.store
        s.releaseWrite.store := .of_update hx _ _ _
    exact .writes (.release hp) (s.releaseSlot_eq ▸ hw.rests hu)

theorem RxAtL2.cfg_eq {s v : State} {todo : List Nat} (h : RxAtL2 s v todo) : v.cfg = s.cfg := by
  obtain ⟨m, x, rfl⟩ := h.frame
  rfl

theorem RxAtL2.ok {s v : State} {todo : List Nat} (h : RxAtL2 s v todo) (hx : s.store.Ok s.cfg) :
    v.store.Ok v.cfg := by
  rcases h with ⟨-, rfl⟩ | ⟨hp, -, rfl⟩
  · exact hx
  · exact (hx.afterRead _).cpuWrite _ _

theorem RxAtP2.ok {s v : State} {n : Nat} {b : Word} {todo : List Nat} (h : RxAtP2 s v n b todo)
    (hx : s.store.Ok s.cfg) : v.store.Ok v.cfg := by
  rcases h with ⟨-, rfl⟩ | ⟨w, -, -, -, -, rfl⟩
  · exact hx
  · exact hx.afterRead _

/-- Every phase outside the ones that rebuild the rings. -/
theorem CommandStep.store_effect {i : Instr} {s t : State} (h : CommandStep i s t) (hf : s.cfg.Flat)
    (hx : s.store.Ok s.cfg) (hb : rebuilding s.phase = false) (hp : Placed i s) : StoreEffect i s t.store := by
  cases h with
  | ringGoesOn h hr | ringEnds h hr | startTxRing h hr | startTxRingEnds h hr | startRxRing h hr
  | startRxRingEnds h hr => simp [h, rebuilding] at hb
  | marked h => exact .writes (.mark rfl h) (.of_update hx _ _ _)
  | flushLine h ho | txT3Line h ho | txT5Line h ho => exact .of_rests (ho.rests hf hx LineOp.flush_ne)
  | flushEnds h ho | txT3Ends h ho | txT5Ends h ho => exact .of_rests (ho.rests hf hx LineOp.flush_ne)
  | invalidateLine h ho | txT7Line h ho => exact .of_rests (ho.rests hf hx fun _ => by rw [State.unflushed, h])
  | invalidateEnds h ho => exact .of_rests (ho.rests hf hx fun _ => by rw [State.unflushed, h])
  | txT1Line h ho => exact .of_rests (ho.rests hf hx fun _ => h.unflushed hp)
  | txNoDesc h ho hw | txSlotFree h ho hw => exact .of_rests (ho.rests_read hf hx (fun _ => h.unflushed hp) _)
  | txAddress h =>
    have haddr : bufWordOf s.cfg s.txSlot = s.cfg.wordAddr .tx s.txCur s.cfg.bufWord := rfl
    exact .writes (.address h) (haddr ▸ .of_write hx _ _)
  | txWord0 h => exact .writes (.word0 h) (s.txSlot_eq ▸ .of_write hx _ _)
  | txDone h ho hw => exact .of_rests (ho.rests_read hf hx (fun _ => by rw [State.unflushed, h]) _)
  | txTimeout h ho hw he | txWaits h ho hw he =>
    exact .of_rests (ho.rests_read hf hx (fun _ => by rw [State.unflushed, h]) _)
  | rxP1Line h ho => exact .of_rests (ho.rests hf hx fun _ => h.unflushed hp)
  | rxNoPacket h ho hw => exact .of_rests (ho.rests_read hf hx (fun _ => h.unflushed hp) _)
  | rxPacket h ho hw hb => exact .of_rests (ho.rests_read hf hx (fun _ => h.unflushed hp) _)
  | rxP2Line h ho =>
    have hu := ho.rests (h.cfg_eq ▸ hf) (h.ok hx) fun _ => h.unflushed
    exact .of_rests (h.rests.trans (h.cfg_eq ▸ hu))
  | rxP2Ends h ho =>
    have hu := ho.rests (h.cfg_eq ▸ hf) (h.ok hx) fun _ => h.unflushed
    exact .of_rests (h.rests.trans (h.cfg_eq ▸ hu))
  | rxL2Line h ho =>
    have hu := ho.rests (drop := False) (h.cfg_eq ▸ hf) (h.ok hx) LineOp.flush_ne
    exact h.effect hx (h.cfg_eq ▸ hu)
  | rxL2Ends h ho =>
    have hu := ho.rests (drop := False) (h.cfg_eq ▸ hf) (h.ok hx) LineOp.flush_ne
    exact h.effect hx (h.cfg_eq ▸ hu)
  | stopMac h =>
    rw [State.stopMac_frame]
    exact .nothing rfl
  | linkEnds h hr | startLinkApplied h hr => exact .nothing (by simp [State.store, State.linkWrite])
  | startReset | startMac | startIer | startRegisters | startEnables | setMacEnds =>
    exact .nothing (by
      simp [State.store, State.startReset, State.programMac, State.programRings, State.enableMac, State.setMac])
  | _ => exact .nothing rfl

end Sys2Proof.Machine


/-! PROOFS. The words of the rings in a state (10_state.md R33), with what the DMA agents make of them (R200, R230), and
R33 (b): the end-of-ring flag and the buffer addresses stay in place. -/

namespace Sys2Proof

/-- The launch premises under which R33 is stated, as facts about addresses and lines. -/
structure Config.Plain (c : Config) : Prop where
  launched : c.Launched
  flat : c.Flat
  extra : c.startExtra.getLsbD 31 = false

theorem Config.plain_of_plainLaunch {c : Config} (h : c.plainLaunch = true) : c.Plain := by
  simp only [Config.plainLaunch, Bool.and_eq_true, Bool.not_eq_true', List.isEmpty_iff] at h
  obtain ⟨⟨hlaunch, hid⟩, hextra⟩ := h
  have hl := Config.launched_of_launchOk hlaunch
  exact ⟨hl, hl.flat hid, hextra⟩

theorem Config.Launched.lineOf_mem_bothRings {c : Config} (h : c.Launched) (r : Ring) {i k : Nat} (hi : i < c.cap r)
    (hk : k < c.descWords) : c.lineOf (c.wordAddr r i k).toNat ∈ c.bothRings :=
  (c.mem_bothRings _).mpr ⟨r, h.lineOf_mem_ring r hi hk⟩

namespace Machine

/-- Word `k` of slot `i` of a ring, from both sides. -/
def State.word (s : State) (r : Ring) (i k : Nat) : Cell := s.store.cell s.cfg (s.cfg.wordAddr r i k)

theorem State.slotDirty_eq (s : State) (r : Ring) (i : Nat) : s.slotDirty r i = (s.word r i 0).dirty :=
  (Store.copyAt_dirty s.cfg s.store _).symm

section
variable {s : State} (h : s.cfg.Plain)
include h

theorem State.ramWord_eq {r : Ring} {i k : Nat} (hi : i < s.cfg.cap r) (hk : k < s.cfg.descWords) :
    s.ramWord (s.cfg.wordAddr r i k) = (s.word r i k).ram :=
  s.ramWord_eq_cell h.flat _ (h.launched.wordAddr_aligned r hi hk)

theorem State.memRead_eq (hs : s.storeOk = true) {r : Ring} {i k : Nat} (hi : i < s.cfg.cap r)
    (hk : k < s.cfg.descWords) : s.memRead (s.cfg.wordAddr r i k) = (s.word r i k).view :=
  s.memRead_eq_cell h.flat hs _ (h.launched.wordAddr_aligned r hi hk)

theorem State.slotWord0_eq {r : Ring} {i : Nat} (hi : i < s.cfg.cap r) : s.slotWord0 r i = (s.word r i 0).ram :=
  State.ramWord_eq h hi h.launched.words_pos

theorem State.slotView0_eq (hs : s.storeOk = true) {r : Ring} {i : Nat} (hi : i < s.cfg.cap r) :
    s.slotView0 r i = (s.word r i 0).view := State.memRead_eq h hs hi h.launched.words_pos

theorem Config.ringPtr_wordAddr (r : Ring) (i : Nat) : s.cfg.ringPtr r i = s.cfg.wordAddr r i 0 := by
  rw [s.cfg.ringPtr_eq h.flat.ident, s.cfg.wordAddr_zero]

/-- What a DMA agent reads through a pointer at a slot. -/
theorem State.dmaRead_eq {r : Ring} {i k : Nat} {p : Word} (hp : p = s.cfg.wordAddr r i k) (hi : i < s.cfg.cap r)
    (hk : k < s.cfg.descWords) : s.dmaRead p = (s.word r i k).ram := by
  rw [← State.ramWord_eq h hi hk, State.ramWord, Config.toDma_id _ _ h.flat.ident, hp]

end

/-! ## The DMA agents on the words of the rings -/

theorem inRange_word {a b : Word} {x : Nat} (ha : a.toNat % 4 = 0) (hb : b.toNat % 4 = 0) (h1 : inRange (a, 4) x)
    (h2 : inRange (b, 4) x) : a = b := by
  obtain ⟨j, hj, e1⟩ := h1
  obtain ⟨k, hk, e2⟩ := h2
  rw [toNat_add_of_aligned a j ha hj] at e1
  rw [toNat_add_of_aligned b k hb hk] at e2
  refine BitVec.toNat_inj.mp ?_
  dsimp only at hj hk
  omega

/-- A word is as before unless one of its bytes has changed. -/
theorem readWord_same_or (m m' : Memory) (e : Endian) (a : Word) :
    m'.readWord e a = m.readWord e a ∨ ∃ b, inRange (a, 4) b ∧ m'.read b ≠ m.read b := by
  by_cases h : ∃ b, inRange (a, 4) b ∧ m'.read b ≠ m.read b
  · exact .inr h
  · refine .inl (Memory.readWord_congr _ _ _ _ fun k hk => ?_)
    by_contra hne
    exact h ⟨_, ⟨k, hk, rfl⟩, hne⟩

section
variable {s : State} (h : s.cfg.Plain) {j : Nat} {r : Ring} {i k : Nat} (hi : i < s.cfg.cap r)
  (hk : k < s.cfg.descWords)
include h hi hk

/-- The TX DMA agent writes word 0 of the slot at its pointer when it completes it, and reserved words beside. -/
theorem txDmaTurn_word (pick : Nat) (x : Word) (reserved : List (Nat × Word)) (hj : j < s.cfg.txCap)
    (hptr : s.txHwptr = s.cfg.ringPtr .tx j) (hwf : s.mem.wf = true) :
    (txDmaTurn pick x reserved s).dmaRead (s.cfg.wordAddr r i k) = s.dmaRead (s.cfg.wordAddr r i k) ∨
    ∃ w, s.txEnabled = true ∧ s.txd = .sent w ∧ r = .tx ∧ i = j ∧
      (s.cfg.reservedWord k = true ∨
        k = 0 ∧ (txDmaTurn pick x reserved s).dmaRead (s.cfg.wordAddr r i k) = s.cfg.txDoneWord w x) := by
  rw [Config.ringPtr_wordAddr h] at hptr
  have hcfg : (txDmaTurn pick x reserved s).cfg = s.cfg := by rw [txDmaTurn_frame]
  unfold State.dmaRead
  rw [hcfg]
  refine (readWord_same_or s.mem _ _ _).imp id fun ⟨b, hb, hne⟩ => ?_
  have ha := h.launched.wordAddr_aligned r hi hk
  cases hen : s.txEnabled with
  | false => rw [txDmaTurn_of_disabled _ _ _ _ hen] at hne; exact absurd rfl hne
  | true =>
    obtain ⟨⟨w, hw⟩, hcase⟩ := txDmaTurn_read_of_ne pick x reserved s b hne
    refine ⟨w, rfl, hw, ?_⟩
    rcases hcase with h0 | ⟨m, hm, h0⟩
    · rw [hptr] at h0
      have heq := inRange_word ha (h.launched.wordAddr_aligned .tx hj h.launched.words_pos) hb h0
      obtain ⟨rfl, rfl, rfl⟩ := h.launched.wordAddr_inj hi hj hk h.launched.words_pos heq
      obtain ⟨-, -, -, -, hread, -⟩ := txDmaTurn_sent_result pick x reserved s w hen hw hwf
      rw [hptr, State.dmaRead, hcfg] at hread
      exact ⟨rfl, rfl, .inr ⟨rfl, hread⟩⟩
    · have hmlt : m < s.cfg.descWords := by
        simp only [Config.reservedWord, Bool.and_eq_true, decide_eq_true_eq] at hm
        exact hm.1.1
      have hslot : descWordOf s.txHwptr m = s.cfg.wordAddr .tx j m := by
        rw [hptr, descWordOf, s.cfg.wordAddr_zero]
        rfl
      rw [hslot] at h0
      have heq := inRange_word ha (h.launched.wordAddr_aligned .tx hj hmlt) hb h0
      obtain ⟨rfl, rfl, rfl⟩ := h.launched.wordAddr_inj hi hj hk hmlt heq
      exact ⟨rfl, rfl, .inl hm⟩

/-- The RX DMA agent writes word 0 of the slot at its pointer when it delivers, and before that its buffer. -/
theorem rxDmaTurn_word (pick : Nat) (hj : j < s.cfg.rxCap) (hptr : s.rxHwptr = s.cfg.ringPtr .rx j)
    (hbuf : ∀ w f d todo, s.rxd = .addressed w f d todo → d = s.cfg.toDma (s.cfg.rxBufAt j)) (hdma : s.dmaOk = true)
    (hwf : s.mem.wf = true) :
    (rxDmaTurn pick s).dmaRead (s.cfg.wordAddr r i k) = s.dmaRead (s.cfg.wordAddr r i k) ∨
    ∃ w f, s.rxEnabled = true ∧ s.rxd = .written w f ∧ r = .rx ∧ i = j ∧ k = 0 ∧
      (rxDmaTurn pick s).dmaRead (s.cfg.wordAddr r i k) = s.cfg.rxDeliverWord w f.bytes.length f.status := by
  rw [Config.ringPtr_wordAddr h] at hptr
  have hcfg : (rxDmaTurn pick s).cfg = s.cfg := by rw [rxDmaTurn_frame]
  unfold State.dmaRead
  rw [hcfg]
  refine (readWord_same_or s.mem _ _ _).imp id fun ⟨b, hb, hne⟩ => ?_
  have ha := h.launched.wordAddr_aligned r hi hk
  cases hen : s.rxEnabled with
  | false => rw [rxDmaTurn_of_disabled _ _ hen] at hne; exact absurd rfl hne
  | true =>
    rcases rxDmaTurn_read_of_ne s pick b hne with ⟨w, f, d, todo, m, hd, -, hm, hbm⟩ | ⟨w, f, hd, h0⟩
    · exfalso
      have hmlt := hm hdma
      have hle : f.bytes.length ≤ s.cfg.rxBufSize := by
        have hrec := (s.dmaOk_iff.mp hdma).2
        rw [hd] at hrec
        simp only [rxRecordOk, Bool.and_eq_true, decide_eq_true_eq] at hrec
        exact hrec.1.2
      have hmem := h.launched.rxBufAt_mem hj
      have hend := h.launched.bufEnd _ hmem
      rw [hbuf w f d todo hd, Config.toDma_id _ _ h.flat.ident, BitVec.toNat_add, BitVec.toNat_ofNat] at hbm
      have hbm' : b = (s.cfg.rxBufAt j).toNat + m := by omega
      obtain ⟨n, hn, hbn⟩ := hb
      rw [toNat_add_of_aligned _ n ha hn] at hbn
      refine h.launched.bufsApart r _ (h.launched.lineOf_mem_ring r hi hk) (List.mem_flatMap.mpr ⟨_, hmem, ?_⟩)
      rw [← Config.lineOf_add_of_aligned s.cfg _ n ha hn, ← hbn, hbm']
      exact s.cfg.lineOf_mem_lines (by omega) (by omega)
    · rw [hptr] at h0
      have heq := inRange_word ha (h.launched.wordAddr_aligned .rx hj h.launched.words_pos) hb h0
      obtain ⟨rfl, rfl, rfl⟩ := h.launched.wordAddr_inj hi hj hk h.launched.words_pos heq
      obtain ⟨-, -, hread, -⟩ := rxDmaTurn_written_result pick s w f hen hd hwf
      rw [hptr, State.dmaRead, hcfg] at hread
      exact ⟨w, f, rfl, hd, rfl, rfl, rfl, hread⟩

/-- Memory changes under the cache: the word on the CPU side is the copy, or memory's new word. -/
theorem word_of_mem {t : State} (hcfg : t.cfg = s.cfg) (hc : t.cache = s.cache) :
    Cell.Overwrites (t.dmaRead (s.cfg.wordAddr r i k)) (s.word r i k) (t.word r i k) := by
  have ha := h.launched.wordAddr_aligned r hi hk
  have ht : t.word r i k = Store.cell s.cfg (s.cfg.wordAddr r i k) ⟨t.mem, s.store.cache⟩ := by
    rw [State.word, State.store, hcfg, hc]
    rfl
  have hread : t.dmaRead (s.cfg.wordAddr r i k) = t.mem.readWord s.cfg.endian (s.cfg.toDma (s.cfg.wordAddr r i k)) := by
    rw [State.dmaRead, hcfg, Config.toDma_id _ _ h.flat.ident]
  rw [ht, hread]
  rcases s.store.cell_mem h.flat t.mem _ ha with ⟨-, h1, h2⟩ | h2
  · exact .inr ⟨h1, h2⟩
  · exact .inl h2

end

/-! ## R33 (b) on memory and cache -/

/-- What R33 (b) and R141 (I3) ask of a word: the end-of-ring flag in word 0, the buffer's address in an RX slot. -/
def MarkedWord (c : Config) (r : Ring) (i k : Nat) (v : Word) : Prop :=
  (k = 0 → c.eor v = (i + 1 == c.cap r)) ∧ (r = .rx → k = c.bufWord → v = c.toDma (c.rxBufAt i))

/-- Every word of both rings is so, in memory and on the CPU side. -/
def Store.Marked (c : Config) (x : Store) : Prop :=
  ∀ r i k, i < c.cap r → k < c.descWords →
    MarkedWord c r i k (x.cell c (c.wordAddr r i k)).ram ∧ MarkedWord c r i k (x.cell c (c.wordAddr r i k)).view

section
variable {c : Config} (h : c.Plain) {x y : Store} (hm : x.Marked c)
include h hm

theorem Store.Marked.settled {drop : Prop} (hs : Store.Settled c drop x y) : y.Marked c := fun r i k hi hk =>
  (hs _ (h.launched.wordAddr_aligned r hi hk)).both (hm r i k hi hk).1 (hm r i k hi hk).2

theorem Store.Marked.writes {r : Ring} {j k : Nat} {v : Word} (hj : j < c.cap r) (hk : k < c.descWords)
    (hw : Store.Writes c (c.wordAddr r j k) v x y) (hv : MarkedWord c r j k v) : y.Marked c := by
  intro q i m hi hm'
  obtain ⟨hr, hview⟩ := hm q i m hi hm'
  have ha := h.launched.wordAddr_aligned r hj hk
  by_cases he : c.wordAddr q i m = c.wordAddr r j k
  · obtain ⟨rfl, rfl, rfl⟩ := h.launched.wordAddr_inj hi hj hm' hk he
    exact hw.same_both h.flat ha hr hv
  · exact hw.other_both h.flat ha (h.launched.wordAddr_aligned q hi hm') he hr hview

theorem Store.Marked.outside {L : List Nat} (ho : Store.Outside c L x y) (hL : ∀ l ∈ L, l ∉ c.bothRings) : y.Marked c := by
  intro r i k hi hk
  rw [ho.cell _ fun hl => hL _ hl ((c.mem_bothRings _).mpr ⟨r, h.launched.lineOf_mem_ring r hi hk⟩)]
  exact hm r i k hi hk

end

theorem State.marked_of_mem {s t : State} (h : s.cfg.Plain) (hm : s.store.Marked s.cfg) (hcfg : t.cfg = s.cfg)
    (hc : t.cache = s.cache) (hw : ∀ r i k, i < s.cfg.cap r → k < s.cfg.descWords →
      t.dmaRead (s.cfg.wordAddr r i k) = s.dmaRead (s.cfg.wordAddr r i k) ∨
      MarkedWord s.cfg r i k (t.dmaRead (s.cfg.wordAddr r i k))) : t.store.Marked t.cfg := by
  intro r i k hi hk
  have ho := word_of_mem h (hcfg ▸ hi) (hcfg ▸ hk) hcfg hc
  rw [hcfg] at hi hk ⊢
  obtain ⟨hr, hv⟩ := hm r i k hi hk
  rw [State.word, State.word, hcfg] at ho
  refine ho.both ?_ hv
  rcases hw r i k hi hk with he | hmk
  · rw [he, State.dmaRead_eq h rfl hi hk]
    exact hr
  · exact hmk

end Machine

end Sys2Proof


/-! PROOFS. Every step of every agent keeps the end-of-ring flags, the buffer addresses of the RX ring and the DMA pointers
(10_state.md R33 (b), 40_ring.md R145). -/

namespace Sys2Proof.Machine

/-- `State.ringsMarked` in words of the rings' words. -/
structure State.Marked (s : State) : Prop where
  noReset : s.macRst = false
  txBase : s.mac.nptxrBadr = s.cfg.ringPtr .tx 0
  rxBase : s.mac.rxrBadr = s.cfg.ringPtr .rx 0
  txAt : ∃ i, i < s.cfg.txCap ∧ s.txHwptr = s.cfg.ringPtr .tx i ∧
    ∀ w, s.txd.word = some w → s.cfg.eor w = (i + 1 == s.cfg.txCap)
  rxAt : ∃ i, i < s.cfg.rxCap ∧ s.rxHwptr = s.cfg.ringPtr .rx i ∧
    (∀ w, s.rxd.word = some w → s.cfg.eor w = (i + 1 == s.cfg.rxCap)) ∧
    ∀ w f d todo, s.rxd = .addressed w f d todo → d = s.cfg.toDma (s.cfg.rxBufAt i)
  words : s.store.Marked s.cfg
  carried : ∀ w, s.phase.txWord = some w → s.cfg.eor w = (s.txCur + 1 == s.cfg.txCap)

theorem State.rxAgree_iff {s : State} (hc : s.rxCur < s.cfg.rxCap) :
    s.rxAgree = true ↔ ∃ i, i < s.cfg.rxCap ∧ s.rxHwptr = s.cfg.ringPtr .rx i := by
  simp only [State.rxAgree, List.any_eq_true, List.mem_range, beq_iff_eq]
  constructor
  · rintro ⟨k, hk, hp⟩
    exact ⟨_, Nat.mod_lt _ (by omega), hp⟩
  · rintro ⟨i, hi, hp⟩
    by_cases hle : s.rxCur ≤ i
    · exact ⟨i - s.rxCur, by omega, by rw [hp, Nat.add_sub_cancel' hle, Nat.mod_eq_of_lt hi]⟩
    · refine ⟨i + s.cfg.rxCap - s.rxCur, by omega, ?_⟩
      rw [hp, show s.rxCur + (i + s.cfg.rxCap - s.rxCur) = i + s.cfg.rxCap by omega, Nat.add_mod_right,
        Nat.mod_eq_of_lt hi]

/-- The store's part of `State.ringsMarked`. -/
theorem State.store_marked_iff {s : State} (h : s.cfg.Plain) (hs : s.storeOk = true) :
    s.store.Marked s.cfg ↔ s.endMarked .tx = true ∧ s.endMarked .rx = true ∧ s.endMarkedCpu .tx = true ∧
      s.endMarkedCpu .rx = true ∧ s.rxArmed = true := by
  have hb := h.launched.bufWord_lt
  simp only [State.endMarked, State.endMarkedCpu, State.rxArmed, State.everySlot_iff, Bool.and_eq_true, beq_iff_eq]
  constructor
  · intro hm
    have hflag (r : Ring) (i : Nat) (hi : i < s.cfg.cap r) := hm r i 0 hi h.launched.words_pos
    refine ⟨fun i hi => ?_, fun i hi => ?_, fun i hi => ?_, fun i hi => ?_, fun i hi => ⟨?_, ?_⟩⟩
    · rw [State.slotWord0_eq h hi]
      exact (hflag .tx i hi).1.1 rfl
    · rw [State.slotWord0_eq h hi]
      exact (hflag .rx i hi).1.1 rfl
    · rw [State.slotView0_eq h hs hi]
      exact (hflag .tx i hi).2.1 rfl
    · rw [State.slotView0_eq h hs hi]
      exact (hflag .rx i hi).2.1 rfl
    · rw [State.ramWord_eq h hi hb]
      exact (hm .rx i _ hi hb).1.2 rfl rfl
    · rw [State.memRead_eq h hs hi hb]
      exact (hm .rx i _ hi hb).2.2 rfl rfl
  · rintro ⟨h1, h2, h3, h4, h5⟩ r i k hi hk
    refine ⟨⟨?_, ?_⟩, ?_, ?_⟩
    · rintro rfl
      rw [← State.word, ← State.slotWord0_eq h hi]
      cases r
      exacts [h1 i hi, h2 i hi]
    · rintro rfl rfl
      rw [← State.word, ← State.ramWord_eq h hi hb]
      exact (h5 i hi).1
    · rintro rfl
      rw [← State.word, ← State.slotView0_eq h hs hi]
      cases r
      exacts [h3 i hi, h4 i hi]
    · rintro rfl rfl
      rw [← State.word, ← State.memRead_eq h hs hi hb]
      exact (h5 i hi).2

/-- The carried words' part of `State.ringsMarked`, at pointers of slots `i` and `j`. -/
theorem State.carriedOk_iff {s : State} (h : s.cfg.Plain) (hm : s.store.Marked s.cfg) {i j : Nat}
    (hi : i < s.cfg.txCap) (hj : j < s.cfg.rxCap) (hpi : s.txHwptr = s.cfg.ringPtr .tx i)
    (hpj : s.rxHwptr = s.cfg.ringPtr .rx j) :
    s.carriedOk = true ↔ (∀ w, s.phase.txWord = some w → s.cfg.eor w = (s.txCur + 1 == s.cfg.txCap)) ∧
      (∀ w, s.txd.word = some w → s.cfg.eor w = (i + 1 == s.cfg.txCap)) ∧
      (∀ w, s.rxd.word = some w → s.cfg.eor w = (j + 1 == s.cfg.rxCap)) ∧
      ∀ w f d todo, s.rxd = .addressed w f d todo → d = s.cfg.toDma (s.cfg.rxBufAt j) := by
  have hb := h.launched.bufWord_lt
  have htx : s.cfg.eor (s.dmaRead s.txHwptr) = (i + 1 == s.cfg.txCap) := by
    rw [State.dmaRead_eq h (hpi.trans (Config.ringPtr_wordAddr h .tx i)) hi h.launched.words_pos]
    exact (hm .tx i 0 hi h.launched.words_pos).1.1 rfl
  have hrx : s.cfg.eor (s.dmaRead s.rxHwptr) = (j + 1 == s.cfg.rxCap) := by
    rw [State.dmaRead_eq h (hpj.trans (Config.ringPtr_wordAddr h .rx j)) hj h.launched.words_pos]
    exact (hm .rx j 0 hj h.launched.words_pos).1.1 rfl
  have hbuf : s.dmaRead (bufWordOf s.cfg s.rxHwptr) = s.cfg.toDma (s.cfg.rxBufAt j) := by
    have haddr : bufWordOf s.cfg s.rxHwptr = s.cfg.wordAddr .rx j s.cfg.bufWord := by
      rw [hpj, Config.ringPtr_wordAddr h, s.cfg.wordAddr_zero]
      rfl
    rw [State.dmaRead_eq h haddr hj hb]
    exact (hm .rx j _ hj hb).1.2 rfl rfl
  have haddr : s.rxAddressOk = true ↔
      ∀ w f d todo, s.rxd = .addressed w f d todo → d = s.cfg.toDma (s.cfg.rxBufAt j) := by
    unfold State.rxAddressOk
    cases hd : s.rxd with
    | addressed w f d todo =>
      simp only [hbuf, beq_iff_eq, RxProgress.addressed.injEq]
      exact ⟨fun e _ _ _ _ ⟨_, _, hdd, _⟩ => hdd ▸ e, fun e => e _ _ _ _ ⟨rfl, rfl, rfl, rfl⟩⟩
    | _ => simp
  simp only [State.carriedOk, Bool.and_eq_true, Option.all_eq_true, beq_iff_eq, htx, hrx, haddr, and_assoc]

theorem State.ringsMarked_iff {s : State} (h : s.cfg.Plain) (hs : s.storeOk = true) (hc : s.cursorsOk = true) :
    s.ringsMarked = true ↔ s.Marked := by
  have hcur := (s.cursorsOk_iff.mp hc).2.1
  simp only [State.ringsMarked, State.pointersOk, Bool.and_eq_true, Bool.not_eq_true', beq_iff_eq, List.any_eq_true,
    List.mem_range, State.rxAgree_iff hcur, and_assoc]
  constructor
  · rintro ⟨hr, hb1, hb2, ⟨i, hi, hpi⟩, ⟨j, hj, hpj⟩, h1, h2, h3, h4, h5, h6⟩
    have hm := (State.store_marked_iff h hs).mpr ⟨h1, h2, h3, h4, h5⟩
    obtain ⟨hcar, htx, hrx, hbuf⟩ := (State.carriedOk_iff h hm hi hj hpi hpj).mp h6
    exact ⟨hr, hb1, hb2, ⟨i, hi, hpi, htx⟩, ⟨j, hj, hpj, hrx, hbuf⟩, hm, hcar⟩
  · rintro ⟨hr, hb1, hb2, ⟨i, hi, hpi, htx⟩, ⟨j, hj, hpj, hrx, hbuf⟩, hm, hcar⟩
    obtain ⟨h1, h2, h3, h4, h5⟩ := (State.store_marked_iff h hs).mp hm
    exact ⟨hr, hb1, hb2, ⟨i, hi, hpi⟩, ⟨j, hj, hpj⟩, h1, h2, h3, h4, h5,
      (State.carriedOk_iff h hm hi hj hpi hpj).mpr ⟨hcar, htx, hrx, hbuf⟩⟩

/-! ## A phase of a command -/

/-- Where the rings stand, no phase rebuilds them. -/
theorem not_rebuilding {i : Instr} {s : State} (hf : Free i s) (hs : s.seqOk = true) (hr : s.ringsStand = true) :
    rebuilding s.phase = false := by
  rcases hf with ho | ho
  · obtain ⟨-, hl, -⟩ := running_of_seqOk hs ho
    unfold State.ringsStand at hr
    rw [ho] at hr
    revert hl hr
    generalize s.phase = p
    intro hl hr
    cases p <;> first | rfl | skip
    all_goals
      cases i <;> first | exact absurd hl Bool.false_ne_true | exact absurd hr Bool.false_ne_true
  · obtain ⟨-, hp, -⟩ := idle_of_seqOk hs ho
    rw [hp]
    rfl

/-- The registers that R33 (b) steers by. -/
theorem CommandStep.keeps_pointers {i : Instr} {s t : State} (h : CommandStep i s t) (hb : rebuilding s.phase = false)
    (hr : s.macRst = false) (hbit : s.mac.maccr.getLsbD 31 = false) (hx : s.cfg.startExtra.getLsbD 31 = false) :
    t.macRst = false ∧ t.mac.nptxrBadr = s.mac.nptxrBadr ∧ t.mac.rxrBadr = s.mac.rxrBadr ∧
      t.txHwptr = s.txHwptr ∧ t.rxHwptr = s.rxHwptr := by
  cases h with
  | ringGoesOn h hr | ringEnds h hr | startTxRing h hr | startTxRingEnds h hr | startRxRing h hr
  | startRxRingEnds h hr => simp [h, rebuilding] at hb
  | startReset h | startRegisters h => simp [h, rebuilding] at hb
  | flushLine h ho | invalidateLine h ho | txT1Line h ho | txT3Line h ho | txT5Line h ho | txT7Line h ho | rxP1Line h ho =>
    obtain ⟨m, x, rfl⟩ := ho.frame
    exact ⟨hr, rfl, rfl, rfl, rfl⟩
  | flushEnds h ho | invalidateEnds h ho | txT3Ends h ho | txT5Ends h ho =>
    obtain ⟨m, x, rfl⟩ := ho.frame
    exact ⟨hr, rfl, rfl, rfl, rfl⟩
  | txNoDesc h ho hw | txSlotFree h ho hw | txDone h ho hw | rxNoPacket h ho hw =>
    obtain ⟨m, x, rfl⟩ := ho.frame
    exact ⟨hr, rfl, rfl, rfl, rfl⟩
  | txTimeout h ho hw he | txWaits h ho hw he | rxPacket h ho hw he =>
    obtain ⟨m, x, rfl⟩ := ho.frame
    exact ⟨hr, rfl, rfl, rfl, rfl⟩
  | rxP2Line h ho | rxP2Ends h ho =>
    obtain ⟨m, x, rfl⟩ := h.frame
    obtain ⟨m', x', rfl⟩ := ho.frame
    exact ⟨hr, rfl, rfl, rfl, rfl⟩
  | rxL2Line h ho | rxL2Ends h ho =>
    obtain ⟨m, x, rfl⟩ := h.frame
    obtain ⟨m', x', rfl⟩ := ho.frame
    exact ⟨hr, rfl, rfl, rfl, rfl⟩
  | linkEnds h hn | startLinkApplied h hn =>
    rw [s.linkWrite_of_no_reset _ hr hbit]
    exact ⟨hr, rfl, rfl, rfl, rfl⟩
  | startEnables h =>
    rw [s.enableMac_of_no_reset hr hbit hx]
    exact ⟨hr, rfl, rfl, rfl, rfl⟩
  | stopMac h =>
    rw [s.stopMac_eq hbit]
    exact ⟨hr, rfl, rfl, rfl, rfl⟩
  | startMac | startIer | setMacEnds => simp [State.programMac, State.setMac, State.regWrite, hr]
  | _ => exact ⟨hr, rfl, rfl, rfl, rfl⟩

section
variable {i : Instr} {s t : State} (h : s.cfg.Plain) (hs : s.storeOk = true) (hm : s.store.Marked s.cfg)
  (hcar : ∀ w, s.phase.txWord = some w → s.cfg.eor w = (s.txCur + 1 == s.cfg.txCap))
include h hs hm

/-- The word 0 that T1 reads has its slot's flag. -/
theorem LastLine.reads_marked {todo : List Nat} {u : State} (ho : LastLine .invalidate todo s u)
    (hcur : s.txCur < s.cfg.txCap) : s.cfg.eor (u.memRead s.txSlot) = (s.txCur + 1 == s.cfg.txCap) := by
  have hu := (hm.settled h (ho.rests (drop := True) h.flat (s.store_ok hs) fun _ => trivial).settled)
    .tx s.txCur 0 hcur h.launched.words_pos
  have hcfg := ho.cfg_eq
  have hread := State.memRead_eq (s := u) (hcfg ▸ h) (ho.storeOk hs) (r := .tx) (i := s.txCur) (k := 0)
    (hcfg ▸ hcur) (hcfg ▸ h.launched.words_pos)
  rw [State.word, hcfg] at hread
  rw [s.txSlot_eq, hread]
  exact hu.2.1 rfl

include hcar

/-- The word 0 that TX_SUBMIT carries keeps its slot's flag. -/
theorem CommandStep.carries_marked (hc : CommandStep i s t) (hcur : s.txCur < s.cfg.txCap) (w : Word)
    (hw : t.phase.txWord = some w) : t.cfg.eor w = (t.txCur + 1 == t.cfg.txCap) := by
  cases hc with
  | txSlotFree hp ho hown =>
    have hflag := LastLine.reads_marked h hs hm ho hcur
    obtain ⟨m, x, rfl⟩ := ho.frame
    cases hw
    exact hflag
  | txAddress hp =>
    cases hw
    exact hcar _ (by rw [hp]; rfl)
  | txT3Line hp ho | txT3Ends hp ho =>
    obtain ⟨m, x, rfl⟩ := ho.frame
    cases hw
    exact hcar _ (by rw [hp]; rfl)
  | _ => cases hw

/-- What a command writes into a ring's word keeps the word as R33 (b) asks. -/
theorem SoftwareWrite.marked {r : Ring} {j k : Nat} {v : Word} (hw : SoftwareWrite i s r j k v) (hf : Free i s)
    (hseq : s.seqOk = true) (hph : s.phaseOk = true) (hc : s.cursorsOk = true) :
    j < s.cfg.cap r ∧ k < s.cfg.descWords ∧ MarkedWord s.cfg r j k v := by
  obtain ⟨htx, hrx, hout⟩ := s.cursorsOk_iff.mp hc
  have hfields := s.cfg.fieldsApart_of_layoutFits h.launched.fits
  have hpos := h.launched.words_pos
  have hbuf := h.launched.bufWord_ne_zero
  cases hw with
  | address hp => exact ⟨htx, h.launched.bufWord_lt, fun e => absurd e hbuf, fun e => by cases e⟩
  | word0 hp =>
    refine ⟨htx, hpos, fun _ => ?_, fun e => by cases e⟩
    simp only [State.phaseOk, hp, Bool.and_eq_true] at hph
    rw [Config.eor_txWord0 _ hfields (s.submitOk_iff.mp hph.1).1]
    exact hcar _ (by rw [hp]; rfl)
  | release hp =>
    have hslot : s.rxOutSlot < s.cfg.rxCap := by
      simp only [State.phaseOk, hp] at hph
      rw [hout hph]
      exact hrx
    refine ⟨hslot, hpos, fun _ => ?_, fun _ e => absurd e.symm hbuf⟩
    rw [Config.eor_releaseWord hfields, s.releaseSlot_eq, State.memRead_eq h hs hslot hpos]
    exact (hm .rx _ 0 hslot hpos).2.1 rfl
  | mark hi hp =>
    have hlast : j + 1 = s.cfg.cap r := by
      rcases hf with ho | ho
      · simpa [State.phaseOk, hp, ho, hi] using hph
      · simp [(idle_of_seqOk hseq ho).2.1] at hp
    refine ⟨by omega, hpos, fun _ => ?_, fun _ e => absurd e.symm hbuf⟩
    rw [Config.eor_markWord hfields, hlast]
    exact (beq_self_eq_true _).symm

end

/-- Every phase of a command where the rings stand. -/
theorem CommandStep.keeps_marked {i : Instr} {s t : State} (hc : CommandStep i s t) (hf : Free i s)
    (h : s.cfg.Plain) (hs : s.sound = true) (hr : s.ringsStand = true) (hm : s.Marked) : t.Marked := by
  obtain ⟨hseq, hph, hcur, hmac, -, hst⟩ := s.sound_iff.mp hs
  have hb := not_rebuilding hf hseq hr
  have hcfg := hc.cfg_eq
  obtain ⟨o, v, he, hl⟩ := hc.done
  obtain ⟨-, -, -, -, htxd, hrxd, -⟩ := he.fixed
  have htxd' : t.txd = s.txd := by rw [hl.registers]; exact htxd
  have hrxd' : t.rxd = s.rxd := by rw [hl.registers]; exact hrxd
  obtain ⟨h1, h2, h3, h4, h5⟩ := hc.keeps_pointers hb hm.noReset (s.maccrOk_iff.mp hmac).1 h.extra
  refine ⟨h1, ?_, ?_, ?_, ?_, ?_, ?_⟩
  · rw [h2, hcfg]
    exact hm.txBase
  · rw [h3, hcfg]
    exact hm.rxBase
  · rw [h4, hcfg, htxd']
    exact hm.txAt
  · rw [h5, hcfg, hrxd']
    exact hm.rxAt
  · rw [hcfg]
    cases hc.store_effect h.flat (s.store_ok hst) hb (hf.placed hseq) with
    | rests hr => exact hm.words.settled h hr.settled
    | writes hw hwr =>
      obtain ⟨hj, hk, hv⟩ := hw.marked h hst hm.words hm.carried hf hseq hph hcur
      exact hm.words.writes h hj hk hwr hv
  · exact hc.carries_marked h hst hm.words hm.carried (s.cursorsOk_iff.mp hcur).1

/-! ## The DMA agents' records and pointers -/

/-- What a turn of the TX DMA agent does to its record and its pointer. -/
inductive TxTurn (s t : State) : Prop
  | rests (hd : t.txd = s.txd) (hp : t.txHwptr = s.txHwptr)
  | fetches (h0 : s.txd = .idle) (how : s.cfg.own (s.dmaRead s.txHwptr) = true)
      (hd : t.txd = .fetched (s.dmaRead s.txHwptr)) (hp : t.txHwptr = s.txHwptr)
  | works {w} (h0 : s.txd.word = some w) (hd : t.txd.word = some w) (hp : t.txHwptr = s.txHwptr)
  | completes {w} (h0 : s.txd = .sent w) (hen : s.txEnabled = true) (hd : t.txd = .idle)
      (hp : t.txHwptr = nextPointer s.cfg w s.mac.nptxrBadr s.txHwptr)

theorem txDmaTurn_record (pick : Nat) (x : Word) (reserved : List (Nat × Word)) (s : State) :
    TxTurn s (txDmaTurn pick x reserved s) := by
  cases hen : s.txEnabled with
  | false => exact .rests (by rw [txDmaTurn_of_disabled _ _ _ _ hen]) (by rw [txDmaTurn_of_disabled _ _ _ _ hen])
  | true =>
    cases hd : s.txd with
    | idle =>
      unfold txDmaTurn
      rw [hen, if_pos rfl, hd]
      dsimp only
      split
      · split
        · next how => exact .fetches hd how rfl rfl
        · exact .rests hd.symm rfl
      · exact .rests rfl rfl
    | fetched w =>
      rw [txDmaTurn_fetched hen _ _ _ w hd]
      exact .works (by rw [hd]; rfl) rfl rfl
    | addressed w b todo buf =>
      rw [txDmaTurn_addressed hen _ _ _ w b todo buf hd]
      have h0 : s.txd.word = some w := by rw [hd]; rfl
      unfold txReadByte
      split
      · exact .works h0 rfl rfl
      · split <;> exact .works h0 rfl rfl
    | sent w =>
      rw [txDmaTurn_sent _ _ _ _ w hen hd]
      exact .completes hd hen rfl rfl

/-- What a turn of the RX DMA agent or of the wire does to the agent's record and its pointer. -/
inductive RxTurn (s t : State) : Prop
  | rests (hd : t.rxd = s.rxd) (hp : t.rxHwptr = s.rxHwptr)
  | fetches {f} (h0 : s.rxd = .idle) (how : s.cfg.own (s.dmaRead s.rxHwptr) = false)
      (hd : t.rxd = .fetched (s.dmaRead s.rxHwptr) f) (hp : t.rxHwptr = s.rxHwptr)
  | works {w} (h0 : s.rxd.word = some w) (hd : t.rxd.word = some w) (hp : t.rxHwptr = s.rxHwptr)
      (ha : ∀ w f d todo, t.rxd = .addressed w f d todo →
        d = s.dmaRead (bufWordOf s.cfg s.rxHwptr) ∨ ∃ w' f' todo', s.rxd = .addressed w' f' d todo')
  | completes {w f} (h0 : s.rxd = .written w f) (hen : s.rxEnabled = true) (hd : t.rxd = .idle)
      (hp : t.rxHwptr = nextPointer s.cfg w s.mac.rxrBadr s.rxHwptr)

theorem wireTurn_record (f : Frame) (s : State) : RxTurn s (wireTurn f s) := by
  unfold wireTurn
  split
  · split
    · next hd =>
      split
      · exact .rests rfl rfl
      · next how => exact .fetches hd (by simpa using how) rfl rfl
    all_goals exact .rests rfl rfl
  · exact .rests rfl rfl

theorem rxDmaTurn_record (pick : Nat) (s : State) : RxTurn s (rxDmaTurn pick s) := by
  cases hen : s.rxEnabled with
  | false => exact .rests (by rw [rxDmaTurn_of_disabled _ _ hen]) (by rw [rxDmaTurn_of_disabled _ _ hen])
  | true =>
    cases hd : s.rxd with
    | idle => exact .rests (by simp [rxDmaTurn, hd]) (by simp [rxDmaTurn, hd])
    | fetched w f =>
      rw [rxDmaTurn_fetched hen _ w f hd]
      refine .works (by rw [hd]; rfl) rfl rfl fun w' f' d todo e => .inl ?_
      cases e
      rfl
    | addressed w f d todo =>
      rw [rxDmaTurn_addressed hen _ w f d todo hd]
      have h0 : s.rxd.word = some w := by rw [hd]; rfl
      unfold rxWriteByte
      split
      · exact .works h0 rfl rfl fun _ _ _ _ e => by cases e
      · refine .works h0 ?_ rfl fun w' f' d' todo' e => .inr ⟨w, f, todo, ?_⟩
        · dsimp only
          split <;> rfl
        · dsimp only at e
          split at e
          · cases e
          · cases e
            exact hd
    | written w f =>
      rw [rxDmaTurn_written hen _ w f hd]
      exact .completes hd hen rfl rfl

/-- The TX pointer and record after a turn, at a slot of the ring. -/
theorem TxTurn.keeps_at {s t : State} (ht : TxTurn s t) (h : s.cfg.Plain) (hm : s.Marked) :
    ∃ i, i < s.cfg.txCap ∧ t.txHwptr = s.cfg.ringPtr .tx i ∧
      ∀ w, t.txd.word = some w → s.cfg.eor w = (i + 1 == s.cfg.txCap) := by
  obtain ⟨i, hi, hp0, hw0⟩ := hm.txAt
  cases ht with
  | rests hd hp => exact ⟨i, hi, hp.trans hp0, hd ▸ hw0⟩
  | fetches h0 how hd hp =>
    refine ⟨i, hi, hp.trans hp0, fun w hw => ?_⟩
    rw [hd] at hw
    cases hw
    rw [State.dmaRead_eq h (hp0.trans (Config.ringPtr_wordAddr h .tx i)) hi h.launched.words_pos]
    exact (hm.words .tx i 0 hi h.launched.words_pos).1.1 rfl
  | works h0 hd hp =>
    refine ⟨i, hi, hp.trans hp0, fun w hw => ?_⟩
    rw [hd] at hw
    cases hw
    exact hw0 _ h0
  | completes h0 hen hd hp =>
    refine ⟨s.cfg.advance .tx i, Nat.mod_lt _ (Nat.zero_lt_of_lt hi), ?_, fun w hw => ?_⟩
    · rw [hp, hm.txBase, hp0, nextPointer_ringPtr _ .tx i _ hi (hw0 _ (by rw [h0]; rfl))]
    · rw [hd] at hw
      cases hw

/-- The RX pointer and record after a turn. -/
theorem RxTurn.keeps_at {s t : State} (ht : RxTurn s t) (h : s.cfg.Plain) (hm : s.Marked) :
    ∃ i, i < s.cfg.rxCap ∧ t.rxHwptr = s.cfg.ringPtr .rx i ∧
      (∀ w, t.rxd.word = some w → s.cfg.eor w = (i + 1 == s.cfg.rxCap)) ∧
      ∀ w f d todo, t.rxd = .addressed w f d todo → d = s.cfg.toDma (s.cfg.rxBufAt i) := by
  obtain ⟨i, hi, hp0, hw0, ha0⟩ := hm.rxAt
  have haddr := hp0.trans (Config.ringPtr_wordAddr h .rx i)
  cases ht with
  | rests hd hp => exact ⟨i, hi, hp.trans hp0, hd ▸ hw0, hd ▸ ha0⟩
  | fetches h0 how hd hp =>
    refine ⟨i, hi, hp.trans hp0, fun w hw => ?_, fun w f d todo e => by rw [hd] at e; cases e⟩
    rw [hd] at hw
    cases hw
    rw [State.dmaRead_eq h haddr hi h.launched.words_pos]
    exact (hm.words .rx i 0 hi h.launched.words_pos).1.1 rfl
  | works h0 hd hp ha =>
    refine ⟨i, hi, hp.trans hp0, fun w hw => ?_, fun w f d todo e => ?_⟩
    · rw [hd] at hw
      cases hw
      exact hw0 _ h0
    · rcases ha w f d todo e with rfl | ⟨w', f', todo', e'⟩
      · have hbuf : bufWordOf s.cfg s.rxHwptr = s.cfg.wordAddr .rx i s.cfg.bufWord := by
          rw [haddr, s.cfg.wordAddr_zero]
          rfl
        rw [State.dmaRead_eq h hbuf hi h.launched.bufWord_lt]
        exact (hm.words .rx i _ hi h.launched.bufWord_lt).1.2 rfl rfl
      · exact ha0 _ _ _ _ e'
  | completes h0 hen hd hp =>
    refine ⟨s.cfg.advance .rx i, Nat.mod_lt _ (Nat.zero_lt_of_lt hi), ?_, fun w hw => ?_,
      fun w f d todo e => by rw [hd] at e; cases e⟩
    · rw [hp, hm.rxBase, hp0, nextPointer_ringPtr _ .rx i _ hi (hw0 _ (by rw [h0]; rfl))]
    · rw [hd] at hw
      cases hw

/-! ## Every step -/

/-- A step of which R33 (b) sees memory and cache alone. -/
theorem State.Marked.of_words {s t : State} (hm : s.Marked) (ht : t = { s with
      agenda := t.agenda, requests := t.requests, ticks := t.ticks, draw := t.draw, cmd := t.cmd, arg0 := t.arg0
      arg1 := t.arg1, res0 := t.res0, res1 := t.res1, busy := t.busy, op := t.op, expired := t.expired
      phase := t.phase, mem := t.mem, cache := t.cache })
    (hp : t.phase.txWord = none ∨ t.phase = s.phase) (hw : t.store.Marked t.cfg) : t.Marked := by
  have hcar : ∀ w, t.phase.txWord = some w → s.cfg.eor w = (s.txCur + 1 == s.cfg.txCap) := by
    intro w hw
    rcases hp with hp | hp
    · simp [hp] at hw
    · exact hm.carried w (hp ▸ hw)
  obtain ⟨h1, h2, h3, h4, h5, -, -⟩ := hm
  rw [ht]
  exact ⟨h1, h2, h3, h4, h5, ht ▸ hw, hcar⟩

theorem wordIndexAddr_aligned (index : BitVec 30) : (wordIndexAddr index).toNat % 4 = 0 := by
  rw [wordIndexAddr_eq, BitVec.toNat_ofNat]
  omega

/-- The line of the caller's store is none of those that it avoids (R326 (c)). -/
theorem State.store_avoids {s : State} {ls : List Nat} {pick : Nat} {phy : PhyAnswer} {index : BitVec 30} {v : Word}
    (h : s.storeAvoids ls = true) (ht : s.nextTurn = .software pick phy) (ho : s.op = none)
    (hq : s.takeTurn.nextRequest = .store index v) : s.cfg.lineOf (wordIndexAddr index).toNat ∉ ls := by
  simpa [State.storeAvoids, ht, ho, hq, Turn.isSoftware] using h

theorem State.store_outside {s : State} (hf : s.cfg.Flat) {index : BitVec 30} {v : Word} :
    Store.Outside s.cfg [s.cfg.lineOf (wordIndexAddr index).toNat] s.store
      (s.store.cpuWrite s.cfg (wordIndexAddr index) v) :=
  .cpuWrite hf _ _ _ (wordIndexAddr_aligned index) (List.mem_singleton_self _)

section
variable {s : State} (h : s.cfg.Plain) (hst : s.storeOk = true) (hm : s.Marked)
include h hst hm

theorem txDmaTurn_marked (pick : Nat) (x : Word) (reserved : List (Nat × Word)) :
    (txDmaTurn pick x reserved s).Marked := by
  obtain ⟨i, hi, hp, hw⟩ := hm.txAt
  have hwords := State.marked_of_mem (t := txDmaTurn pick x reserved s) h hm.words
    (by rw [txDmaTurn_frame]) (by rw [txDmaTurn_frame]) fun r j k hj hk => by
      refine (txDmaTurn_word h hj hk pick x reserved hi hp (State.mem_wf_of_storeOk hst)).imp id ?_
      rintro ⟨w, -, hd, rfl, rfl, hk' | ⟨rfl, hv⟩⟩
      · simp only [Config.reservedWord, Bool.and_eq_true, bne_iff_ne] at hk'
        exact ⟨fun e => absurd e hk'.1.2, fun e => by cases e⟩
      · refine ⟨fun _ => ?_, fun e => by cases e⟩
        rw [hv, Config.eor_txDoneWord (s.cfg.fieldsApart_of_layoutFits h.launched.fits)]
        exact hw w (by rw [hd]; rfl)
  have hat := (txDmaTurn_record pick x reserved s).keeps_at h hm
  rw [txDmaTurn_frame] at hwords hat ⊢
  exact ⟨hm.noReset, hm.txBase, hm.rxBase, hat, hm.rxAt, hwords, hm.carried⟩

theorem rxDmaTurn_marked (pick : Nat) (hdma : s.dmaOk = true) : (rxDmaTurn pick s).Marked := by
  obtain ⟨i, hi, hp, hw, ha⟩ := hm.rxAt
  have hwords := State.marked_of_mem (t := rxDmaTurn pick s) h hm.words
    (by rw [rxDmaTurn_frame]) (by rw [rxDmaTurn_frame]) fun r j k hj hk => by
      refine (rxDmaTurn_word h hj hk pick hi hp ha hdma (State.mem_wf_of_storeOk hst)).imp id ?_
      rintro ⟨w, f, -, hd, rfl, rfl, rfl, hv⟩
      have hlen : f.bytes.length ≤ s.cfg.lenMax := by
        have hrec := (s.dmaOk_iff.mp hdma).2
        rw [hd] at hrec
        simp only [rxRecordOk, Bool.and_eq_true, decide_eq_true_eq] at hrec
        exact hrec.2.trans h.launched.bufLen
      refine ⟨fun _ => ?_, fun _ e => absurd e.symm h.launched.bufWord_ne_zero⟩
      rw [hv, Config.eor_rxDeliverWord (s.cfg.fieldsApart_of_layoutFits h.launched.fits) w _ hlen]
      exact hw w (by rw [hd]; rfl)
  have hat := (rxDmaTurn_record pick s).keeps_at h hm
  rw [rxDmaTurn_frame] at hwords hat ⊢
  exact ⟨hm.noReset, hm.txBase, hm.rxBase, hm.txAt, hat, hwords, hm.carried⟩

omit hst in
theorem wireTurn_marked (f : Frame) : (wireTurn f s).Marked := by
  have hat := (wireTurn_record f s).keeps_at h hm
  rw [wireTurn_frame] at hat ⊢
  exact ⟨hm.noReset, hm.txBase, hm.rxBase, hm.txAt, hat, hm.words, hm.carried⟩

theorem cacheWriteBackTurn_marked (a : Word) (keep : Bool) : (cacheWriteBackTurn a keep s).Marked := by
  have hwords := hm.words.settled h (cacheWriteBackTurn_settled a keep h.flat (s.store_ok hst))
  rw [cacheWriteBackTurn_frame] at hwords ⊢
  exact hm.of_words rfl (.inr rfl) hwords

omit hst in
theorem cacheFillTurn_marked (a : Word) : (cacheFillTurn a s).Marked := by
  have hwords := hm.words.settled h (cacheFillTurn_settled a)
  rw [cacheFillTurn_frame] at hwords ⊢
  exact hm.of_words rfl (.inr rfl) hwords

omit hst in
theorem cacheDropTurn_marked (a : Word) : (cacheDropTurn a s).Marked := by
  have hwords := hm.words.settled h (cacheDropTurn_settled a)
  rw [cacheDropTurn_frame] at hwords ⊢
  exact hm.of_words rfl (.inr rfl) hwords

end

/-- The whole of R33 (b) in one step. -/
theorem step_keeps_marked {s t : State} (h : s.cfg.Plain) (hs : s.sound = true) (hr : s.ringsStand = true)
    (hk : s.ringsLeftAlone = true) (hm : s.Marked) (hstep : step s = .next t) : t.Marked := by
  obtain ⟨-, -, -, -, hdma, hst⟩ := s.sound_iff.mp hs
  have htaken : s.takeTurn.Marked := hm.of_words rfl (.inr rfl) hm.words
  cases step_cases hstep with
  | runs ht ho hc => exact hc.keeps_marked (.inl ho) h hs hr (hm.of_words rfl (.inr rfl) hm.words)
  | starts ht ho hb hc =>
    refine hc.keeps_marked (.inr ho) h (sound_of_begun _ _ _ ho hs) ?_ (hm.of_words rfl (.inl rfl) hm.words)
    simp [State.ringsStand, State.begun, State.turned, ho]
  | illegal ht ho hb => exact hm.of_words rfl (.inl rfl) hm.words
  | pause ht ho => exact hm.of_words rfl (.inr rfl) hm.words
  | arg0 ht ho hb => exact hm.of_words rfl (.inr rfl) hm.words
  | arg1 ht ho hb => exact hm.of_words rfl (.inr rfl) hm.words
  | load ht ho =>
    exact hm.of_words rfl (.inr rfl) (hm.words.settled h (Store.Settled.afterRead (drop := False) s.store _))
  | store ht ho hq =>
    refine hm.of_words rfl (.inr rfl) (hm.words.outside h (State.store_outside h.flat) fun l hl => ?_)
    rw [List.mem_singleton.mp hl]
    exact State.store_avoids hk ht ho hq
  | txDma ht => exact txDmaTurn_marked (s := s.takeTurn) h hst htaken _ _ _
  | wire ht => exact wireTurn_marked (s := s.takeTurn) h htaken _
  | rxDma ht => exact rxDmaTurn_marked (s := s.takeTurn) h hst htaken _ hdma
  | cacheWriteBack ht => exact cacheWriteBackTurn_marked (s := s.takeTurn) h hst htaken _ _
  | cacheFill ht => exact cacheFillTurn_marked (s := s.takeTurn) h htaken _
  | cacheDrop ht => exact cacheDropTurn_marked (s := s.takeTurn) h htaken _
  | mac ht => rwa [macTurn_of_no_reset _ _ _ s.takeTurn hm.noReset]
  | timer ht =>
    rw [timerTurn_frame]
    exact htaken.of_words rfl (.inr rfl) hm.words

/-- Settles O28: `State.Marked` is kept by every turn. -/
theorem stepKeepsEndMarks : Obligations.StepKeepsEndMarks := by
  intro s t hl hs hr hk hm hstep
  have h := Config.plain_of_plainLaunch hl
  obtain ⟨-, -, hcur, -, -, hst⟩ := s.sound_iff.mp hs
  have ht := step_keeps_marked h hs hr hk ((State.ringsMarked_iff h hst hcur).mp hm) hstep
  obtain ⟨-, -, hcur', -, -, hst'⟩ := t.sound_iff.mp (stepKeepsSound s t hs hstep)
  have hcfg : t.cfg = s.cfg := stepKeepsConfiguration s t hstep
  exact (State.ringsMarked_iff (hcfg ▸ h) hst' hcur').mpr ht

end Sys2Proof.Machine


/-! PROOFS. R33 (d), the writes: in every step of every agent no ring line is dirty but those that the running command still
flushes (42_tx.md R182, 43_rx.md R212). -/

namespace Sys2Proof.Machine

/-- `State.ringsFlushed`, line by line. -/
def State.Flushed (s : State) : Prop := ∀ l, s.store.dirtyAt l = true → l ∈ s.cfg.bothRings → l ∈ s.unflushed

theorem State.flushed_iff {s : State} (hs : s.storeOk = true) : s.ringsFlushed = true ↔ s.Flushed :=
  s.ringsFlushed_iff (State.cache_wf_of_storeOk hs)

/-- A phase of command `i` is next, on a started ring. -/
structure Underway (i : Instr) (s : State) : Prop where
  plain : s.cfg.Plain
  sound : s.sound = true
  free : Free i s
  calm : rebuilding s.phase = false
  noMark : s.phase ≠ .markM2

section
variable {i : Instr} {s t : State}

theorem Underway.seqOk (hu : Underway i s) : s.seqOk = true := (s.sound_iff.mp hu.sound).1

theorem Underway.phaseOk (hu : Underway i s) : s.phaseOk = true := (s.sound_iff.mp hu.sound).2.1

theorem Underway.cursors (hu : Underway i s) :
    s.txCur < s.cfg.txCap ∧ s.rxCur < s.cfg.rxCap ∧ (s.rxOut = true → s.rxOutSlot = s.rxCur) :=
  s.cursorsOk_iff.mp (s.sound_iff.mp hu.sound).2.2.1

theorem Underway.storeOk (hu : Underway i s) : s.storeOk = true := (s.sound_iff.mp hu.sound).2.2.2.2.2

theorem Underway.ok (hu : Underway i s) : s.store.Ok s.cfg := s.store_ok hu.storeOk

theorem Underway.placed (hu : Underway i s) : Placed i s := hu.free.placed hu.seqOk

theorem Underway.fields (hu : Underway i s) : s.cfg.FieldsApart := s.cfg.fieldsApart_of_layoutFits hu.plain.launched.fits

theorem Underway.effect (hu : Underway i s) (hc : CommandStep i s t) : StoreEffect i s t.store :=
  hc.store_effect hu.plain.flat hu.ok hu.calm hu.placed

/-- RX_RELEASE is past L1 only with a packet outstanding, whose slot is the cursor's. -/
theorem Underway.outSlot (hu : Underway i s) (ho : s.rxOut = true) : s.rxOutSlot = s.rxCur := hu.cursors.2.2 ho

/-- Only TX_SUBMIT and RX_RELEASE have lines of their own to flush. -/
theorem unflushed_of_other (hp : Placed i s) (h1 : i ≠ .txSubmit) (h2 : i ≠ .rxRelease) : s.unflushed = [] := by
  rcases hp with hl | hp
  · unfold State.unflushed
    revert hl
    generalize s.phase = p
    intro hl
    cases p <;> first | rfl | skip
    all_goals cases i <;> first | exact absurd hl Bool.false_ne_true | exact absurd rfl h1 | exact absurd rfl h2
  · exact unflushed_of_first hp

/-- And only they write words of a started ring. -/
theorem SoftwareWrite.command {r : Ring} {j k : Nat} {v : Word} (hw : SoftwareWrite i s r j k v) (hp : Placed i s)
    (hn : s.phase ≠ .markM2) : (i = .txSubmit ∧ r = .tx ∧ j = s.txCur) ∨ (i = .rxRelease ∧ r = .rx ∧ j = s.rxOutSlot ∧ k = 0) := by
  cases hw with
  | address h | word0 h =>
    rcases hp with hl | hf
    · rw [h] at hl
      cases i <;> first | exact absurd hl Bool.false_ne_true | exact .inl ⟨rfl, rfl, rfl⟩
    · rw [h] at hf
      cases hf
  | release h =>
    rcases hp with hl | hf
    · rw [h] at hl
      cases i <;> first | exact absurd hl Bool.false_ne_true | exact .inr ⟨rfl, rfl, rfl, rfl⟩
    · rw [h] at hf
      cases hf
  | mark hi h => exact absurd h hn

theorem CommandStep.rests_of_other (hu : Underway i s) (hc : CommandStep i s t) (h1 : i ≠ .txSubmit)
    (h2 : i ≠ .rxRelease) : Store.Rests s.cfg (s.unflushed = []) s.store t.store := by
  cases hu.effect hc with
  | rests h => exact h
  | writes hw h =>
    rcases hw.command hu.placed hu.noMark with ⟨e, -⟩ | ⟨e, -⟩
    exacts [absurd e h1, absurd e h2]

/-! ## Lines left to flush -/

/-- Lines that get dirty, and dirty ones that are done with, are all that matters. -/
theorem State.Flushed.step (hfl : s.Flushed) {L : List Nat} (hcfg : t.cfg = s.cfg) (hs : Store.Soils L s.store t.store)
    (hL : ∀ l ∈ L, t.store.dirtyAt l = true → l ∈ s.cfg.bothRings → l ∈ t.unflushed)
    (hkeep : ∀ l ∈ s.unflushed, t.store.dirtyAt l = true → l ∈ t.unflushed) : t.Flushed := by
  intro l hd hl
  rw [hcfg] at hl
  rcases hs l hd with hds | hm
  · exact hkeep l (hfl l hds hl) hd
  · exact hL l hm hd hl

theorem State.Flushed.of_rests (hfl : s.Flushed) {drop : Prop} (hcfg : t.cfg = s.cfg)
    (hr : Store.Rests s.cfg drop s.store t.store)
    (hkeep : ∀ l ∈ s.unflushed, t.store.dirtyAt l = true → l ∈ t.unflushed) : t.Flushed :=
  hfl.step hcfg hr.soils (by simp) hkeep

/-- Nothing was left, and nothing gets dirty. -/
theorem State.Flushed.of_none (hfl : s.Flushed) {drop : Prop} (hcfg : t.cfg = s.cfg)
    (hr : Store.Rests s.cfg drop s.store t.store) (hn : s.unflushed = []) : t.Flushed :=
  hfl.of_rests hcfg hr (by simp [hn])

/-- A dirty line of a slot is one of the lines that a Flush of the slot takes. -/
theorem mem_syncLines_of_dirty {c : Config} {x : Store} (hx : x.Ok c) {l : Nat} (hd : x.dirtyAt l = true) {a : Word} {n : Nat}
    (hl : l ∈ c.lines a.toNat n) : l ∈ c.syncLines a n := by
  cases hc : c.coherent with
  | true => simp [Store.not_dirty_of_coherent hx hc] at hd
  | false => rwa [Config.syncLines_not_coherent _ _ _ hc]

theorem OneLine.soils {o : LineOp} {todo rest L : List Nat} (ho : OneLine o todo rest s t) :
    Store.Soils L s.store t.store := by
  obtain ⟨l, -, rfl⟩ := ho.store
  exact .lineOp s.cfg s.store o l

theorem LastLine.soils {o : LineOp} {todo L : List Nat} (ho : LastLine o todo s t) : Store.Soils L s.store t.store := by
  rcases ho.store with ⟨-, rfl⟩ | ⟨l, -, rfl⟩
  · exact .of_cache_eq rfl
  · exact .lineOp s.cfg s.store o l

/-- After one line of a Flush the lines left hold every dirty line that the Flush had left before. -/
theorem mem_rest_of_dirty {o : LineOp} {todo rest : List Nat} (ho : OneLine o todo rest s t) {l : Nat} (hl : l ∈ todo)
    (hd : t.store.dirtyAt l = true) : l ∈ rest := by
  obtain ⟨k, hk, rfl⟩ := ho.store
  rcases List.mem_cons.mp (hk.mem_iff.mpr hl) with rfl | h
  · have hn : (s.withStore (o.store s.cfg s.store l)).store.dirtyAt l = false := o.not_dirty ..
    rw [hn] at hd
    cases hd
  · exact h

theorem not_dirty_of_last {o : LineOp} {todo : List Nat} (ho : LastLine o todo s t) {l : Nat} (hl : l ∈ todo) :
    t.store.dirtyAt l = false := by
  rcases ho.store with ⟨rfl, -⟩ | ⟨k, rfl, rfl⟩
  · simp at hl
  · rw [List.mem_singleton.mp hl]
    exact o.not_dirty ..

theorem txSubmit_keeps_flushed (hu : Underway .txSubmit s) (hfl : s.Flushed) (hc : CommandStep .txSubmit s t) :
    t.Flushed := by
  have hcfg := hc.cfg_eq
  have hslot {k : Nat} (hk : k < s.cfg.descWords) :
      s.cfg.lineOf (s.cfg.wordAddr .tx s.txCur k).toNat ∈ s.cfg.lines s.txSlot.toNat s.cfg.descSize :=
    hu.plain.launched.lineOf_mem_slot .tx hu.cursors.1 hk
  have htok : t.store.Ok s.cfg := hcfg ▸ t.store_ok (hc.keeps_storeOk hu.storeOk)
  have heff := hu.effect hc
  cases hc with
  | badState h hl | txBadArg h hl hb =>
    exact hfl.of_none rfl (Store.Rests.refl s.cfg False s.store) (unflushed_of_first (hu.placed.first h))
  | txT1Line h ho =>
    have hr := ho.rests (drop := True) hu.plain.flat hu.ok fun _ => trivial
    exact hfl.of_none hcfg hr (h.unflushed hu.placed)
  | txNoDesc h ho hw | txSlotFree h ho hw =>
    exact hfl.of_none hcfg (ho.rests_read (drop := True) hu.plain.flat hu.ok (fun _ => trivial) _) (h.unflushed hu.placed)
  | txAddress h =>
    refine hfl.step rfl (L := [_]) (Store.Soils.cpuWrite _ _ (bufWordOf s.cfg s.txSlot) _ (List.mem_singleton_self _))
      (fun l hl hd _ => ?_) (by simp [State.unflushed, h])
    refine mem_syncLines_of_dirty htok hd ?_
    rw [List.mem_singleton.mp hl]
    exact hslot hu.plain.launched.bufWord_lt
  | txT3Line h ho =>
    have hr := ho.rests (drop := False) hu.plain.flat hu.ok LineOp.flush_ne
    refine hfl.of_rests hcfg hr fun l hl _ => ?_
    obtain ⟨m, x, rfl⟩ := ho.frame
    rwa [State.unflushed, h] at hl
  | txT3Ends h ho =>
    have hr := ho.rests (drop := False) hu.plain.flat hu.ok LineOp.flush_ne
    refine hfl.of_rests hcfg hr fun l hl _ => ?_
    obtain ⟨m, x, rfl⟩ := ho.frame
    rwa [State.unflushed, h] at hl
  | @txWord0 _ w h =>
    have hall : ∀ l ∈ s.cfg.syncLines s.txSlot s.cfg.descSize,
        l ∈ ((s.memWrite s.txSlot (s.cfg.txWord0 w s.txLen)).atPhase .txSubmit
          (.txT5 (s.cfg.syncLines s.txSlot s.cfg.descSize))).unflushed := fun l hl => by
      exact List.mem_filter.mpr ⟨hl, by simpa using hl⟩
    refine hfl.step rfl (L := [_]) (Store.Soils.cpuWrite _ _ s.txSlot _ (List.mem_singleton_self _)) (fun l hl hd _ => ?_)
      (fun l hl _ => hall l (by rwa [State.unflushed, h] at hl))
    refine hall l (mem_syncLines_of_dirty htok hd ?_)
    rw [List.mem_singleton.mp hl, s.txSlot_eq, ← s.txSlot_eq]
    exact s.txSlot_eq ▸ hslot hu.plain.launched.words_pos
  | txT5Line h ho =>
    have hr := ho.rests (drop := False) hu.plain.flat hu.ok LineOp.flush_ne
    refine hfl.of_rests hcfg hr fun l hl hd => ?_
    rw [State.unflushed, h] at hl
    obtain ⟨hl1, hl2⟩ := List.mem_filter.mp hl
    have hrest := mem_rest_of_dirty ho (by simpa using hl2) hd
    obtain ⟨m, x, rfl⟩ := ho.frame
    exact List.mem_filter.mpr ⟨hl1, by simpa using hrest⟩
  | txT5Ends h ho =>
    have hr := ho.rests (drop := False) hu.plain.flat hu.ok LineOp.flush_ne
    refine hfl.of_rests hcfg hr fun l hl hd => ?_
    rw [State.unflushed, h] at hl
    have hn := not_dirty_of_last ho (by simpa using (List.mem_filter.mp hl).2)
    rw [State.atPhase_store, hn] at hd
    cases hd
  | txDoorbell h | txEnds h =>
    exact hfl.of_none rfl (Store.Rests.refl s.cfg False s.store) (by rw [State.unflushed, h])
  | txT7Line h ho =>
    have hr := ho.rests (drop := True) hu.plain.flat hu.ok fun _ => trivial
    exact hfl.of_none hcfg hr (by rw [State.unflushed, h])
  | txDone h ho hw =>
    exact hfl.of_none hcfg (ho.rests_read (drop := True) hu.plain.flat hu.ok (fun _ => trivial) _)
      (by rw [State.unflushed, h])
  | txTimeout h ho hw he | txWaits h ho hw he =>
    exact hfl.of_none hcfg (ho.rests_read (drop := True) hu.plain.flat hu.ok (fun _ => trivial) _)
      (by rw [State.unflushed, h])

/-- L2's Flush, with the read-modify-write before it or without. -/
theorem RxAtL2.soils {v : State} {todo : List Nat} (h : RxAtL2 s v todo) (hu : Underway .rxRelease s) (hfl : s.Flushed)
    {l : Nat} (hd : v.store.dirtyAt l = true) (hl : l ∈ s.cfg.bothRings) :
    l ∈ (s.cfg.syncLines s.releaseSlot s.cfg.descSize).filter todo.contains := by
  rcases h with ⟨hp, rfl⟩ | ⟨hp, rfl, rfl⟩
  · have := hfl l hd hl
    rwa [State.unflushed, hp] at this
  · have hout : s.rxOut = true := by simpa only [State.phaseOk, hp] using hu.phaseOk
    have hmem : l ∈ s.cfg.syncLines s.releaseSlot s.cfg.descSize := by
      have hw : Store.Writes s.cfg s.releaseSlot (s.cfg.releaseWord (s.memRead s.releaseSlot)) s.store
        s.releaseWrite.store := .of_update hu.ok _ _ _
      rcases hw.soils l hd with hds | hm
      · have := hfl l hds hl
        simp [State.unflushed, hp] at this
      · refine mem_syncLines_of_dirty ((hu.ok.afterRead _).cpuWrite _ _) hd ?_
        rw [List.mem_singleton.mp hm, s.releaseSlot_eq]
        have := hu.plain.launched.lineOf_mem_slot .rx (i := s.rxOutSlot) (k := 0)
          (by rw [hu.outSlot hout]; exact hu.cursors.2.1) hu.plain.launched.words_pos
        rwa [s.cfg.wordAddr_zero] at this ⊢
    exact List.mem_filter.mpr ⟨hmem, by simpa using hmem⟩

theorem RxAtL2.releaseSlot_eq {v : State} {todo : List Nat} (h : RxAtL2 s v todo) :
    v.releaseSlot = s.releaseSlot ∧ v.cfg = s.cfg := by
  obtain ⟨m, x, rfl⟩ := h.frame
  exact ⟨rfl, rfl⟩

theorem OneLine.releaseSlot_eq {o : LineOp} {todo rest : List Nat} (h : OneLine o todo rest s t) (p : Phase) :
    (t.atPhase .rxRelease p).releaseSlot = s.releaseSlot ∧ (t.atPhase .rxRelease p).cfg = s.cfg := by
  obtain ⟨m, x, rfl⟩ := h.frame
  exact ⟨rfl, rfl⟩

theorem rxRelease_keeps_flushed (hu : Underway .rxRelease s) (hfl : s.Flushed) (hc : CommandStep .rxRelease s t) :
    t.Flushed := by
  have hcfg := hc.cfg_eq
  cases hc with
  | badState h hl | rxReleaseNone h hl ho | rxReleaseBegins h hl ho =>
    exact hfl.of_none rfl (Store.Rests.refl s.cfg False s.store) (unflushed_of_first (hu.placed.first h))
  | rxL2Line h ho =>
    intro l hd hl
    rw [hcfg] at hl
    have hdv := (ho.soils (L := []) l hd).resolve_right (by simp)
    obtain ⟨hl1, hl2⟩ := List.mem_filter.mp (h.soils hu hfl hdv hl)
    have hrest := mem_rest_of_dirty ho (by simpa using hl2) hd
    obtain ⟨hslot, hcfg'⟩ := h.releaseSlot_eq
    obtain ⟨hslot', hcfg''⟩ := ho.releaseSlot_eq (.rxL2Lines _)
    refine List.mem_filter.mpr ⟨?_, by simpa using hrest⟩
    rw [hcfg'', hslot', hcfg', hslot]
    exact hl1
  | rxL2Ends h ho =>
    intro l hd hl
    rw [hcfg] at hl
    rw [State.atPhase_store] at hd
    rcases ho.store with ⟨rfl, rfl⟩ | ⟨k, rfl, hu'⟩
    · obtain ⟨hl1, hl2⟩ := List.mem_filter.mp (h.soils hu hfl hd hl)
      simp at hl2
    · have hdv := (ho.soils (L := []) l hd).resolve_right (by simp)
      obtain ⟨hl1, hl2⟩ := List.mem_filter.mp (h.soils hu hfl hdv hl)
      simp [not_dirty_of_last ho (by simpa using hl2)] at hd
  | rxReleaseEnds h => exact hfl.of_none rfl (Store.Rests.refl s.cfg False s.store) (by rw [State.unflushed, h])

theorem CommandStep.keeps_flushed (hu : Underway i s) (hfl : s.Flushed) (hc : CommandStep i s t) : t.Flushed := by
  by_cases h1 : i = .txSubmit
  · subst h1
    exact txSubmit_keeps_flushed hu hfl hc
  · by_cases h2 : i = .rxRelease
    · subst h2
      exact rxRelease_keeps_flushed hu hfl hc
    · exact hfl.of_none hc.cfg_eq (hc.rests_of_other hu h1 h2) (unflushed_of_other hu.placed h1 h2)

end

/-! ## Every step -/

/-- A state of a well-started ring. -/
structure State.Started (s : State) : Prop where
  plain : s.cfg.Plain
  sound : s.sound = true
  stand : s.ringsStand = true
  noMark : s.phase ≠ .markM2

theorem legal_marking {r : Ring} {k : Nat} {l : Life} (h : legal (.ringMarkEnd r k) l = true) : l ≠ .running := by
  rintro rfl
  cases h

theorem State.started_of_wellStarted {s : State} (h : s.wellStarted = true) : s.Started := by
  simp only [State.wellStarted, Bool.and_eq_true] at h
  obtain ⟨⟨hplain, hs⟩, hst⟩ := h
  obtain ⟨hseq, -⟩ := s.sound_iff.mp hs
  simp only [State.started, Bool.or_eq_true, Bool.and_eq_true, beq_iff_eq] at hst
  refine ⟨Config.plain_of_plainLaunch hplain, hs, ?_, fun hp => ?_⟩
  · cases ho : s.op with
    | none => simp [State.ringsStand, ho]
    | some i =>
      obtain ⟨-, hl, hfit⟩ := running_of_seqOk hseq ho
      cases i with
      | ringInit r =>
        rcases hst with hrun | ⟨hdev, -⟩
        · simp [lifeFits, legal, hrun] at hfit
        · simp [ho] at hdev
      | devStart =>
        rcases hst with hrun | ⟨-, hpast⟩
        · rw [hrun] at hfit
          unfold lifeFits at hfit
          dsimp only at hfit
          split at hfit <;> cases hfit
        · simpa [State.ringsStand, ho] using hpast
      | _ => simp [State.ringsStand, ho]
  · cases ho : s.op with
    | none => simp [(idle_of_seqOk hseq ho).2.1] at hp
    | some i =>
      obtain ⟨-, hl, hfit⟩ := running_of_seqOk hseq ho
      rw [hp] at hl hfit hst
      cases i <;> first | exact absurd hl Bool.false_ne_true | skip
      simp only [lifeFits, Bool.and_eq_true] at hfit
      rcases hst with hrun | ⟨hdev, -⟩
      · exact legal_marking hfit.1 hrun
      · simp [ho] at hdev

section
variable {s t : State} {i : Instr}

theorem State.Started.runs (h : s.Started) (ho : s.op = some i) (d : Draw) (rs : List Request) :
    Underway i (s.turned d rs) :=
  ⟨h.plain, h.sound, .inl ho, not_rebuilding (.inl ho) (s.sound_iff.mp h.sound).1 h.stand, h.noMark⟩

theorem State.Started.starts (h : s.Started) (ho : s.op = none) (d : Draw) (rs : List Request) (w : Word) :
    Underway i ((s.turned d rs).begun w) :=
  ⟨h.plain, sound_of_begun _ _ _ ho h.sound, .inr ho, rfl, Phase.noConfusion⟩

/-- A step of which R33 (d) sees no flush and no write of a ring line. -/
theorem State.Flushed.of_agent (hfl : s.Flushed) {L : List Nat} (hcfg : t.cfg = s.cfg) (hun : t.unflushed = s.unflushed)
    (hs : Store.Soils L s.store t.store) (hL : ∀ l ∈ L, l ∉ s.cfg.bothRings) : t.Flushed :=
  hfl.step hcfg hs (fun l hl _ hm => absurd hm (hL l hl)) fun _ hl _ => hun ▸ hl

theorem State.Flushed.of_cache_eq (hfl : s.Flushed) (hcfg : t.cfg = s.cfg) (hun : t.unflushed = s.unflushed)
    (hc : t.cache = s.cache) : t.Flushed := hfl.of_agent hcfg hun (L := []) (.of_cache_eq hc) (by simp)

theorem step_keeps_flushed (h : s.Started) (hk : s.ringsLeftAlone = true) (hfl : s.Flushed)
    (hstep : step s = .next t) : t.Flushed := by
  have hseq := (s.sound_iff.mp h.sound).1
  have hfirst (ho : s.op = none) : s.unflushed = [] := unflushed_of_first (idle_of_seqOk hseq ho).2.1
  cases step_cases hstep with
  | runs ht ho hc => exact hc.keeps_flushed (h.runs ho _ _) hfl
  | starts ht ho hb hc =>
    exact hc.keeps_flushed (h.starts ho _ _ _) (hfl.of_cache_eq rfl (hfirst ho).symm rfl)
  | illegal ht ho hb => exact hfl.of_cache_eq rfl (hfirst ho).symm rfl
  | pause ht ho => exact hfl
  | arg0 ht ho hb | arg1 ht ho hb =>
    exact hfl.of_cache_eq rfl rfl rfl
  | load ht ho => exact hfl.of_agent rfl rfl (L := []) (.afterRead s.cfg s.store _) (by simp)
  | store ht ho hq =>
    refine hfl.of_agent rfl rfl (L := [_]) (.cpuWrite s.cfg s.store _ _ (List.mem_singleton_self _)) fun l hl => ?_
    rw [List.mem_singleton.mp hl]
    exact State.store_avoids hk ht ho hq
  | txDma ht => rw [txDmaTurn_frame]; exact hfl.of_cache_eq rfl rfl rfl
  | wire ht => rw [wireTurn_frame]; exact hfl.of_cache_eq rfl rfl rfl
  | rxDma ht => rw [rxDmaTurn_frame]; exact hfl.of_cache_eq rfl rfl rfl
  | @cacheWriteBack a keep ht =>
    have hs := cacheWriteBackTurn_soils (s := s.takeTurn) a keep
    rw [cacheWriteBackTurn_frame] at hs ⊢
    exact hfl.of_agent rfl rfl hs (by simp)
  | @cacheFill a ht =>
    have hs := cacheFillTurn_soils (s := s.takeTurn) a
    rw [cacheFillTurn_frame] at hs ⊢
    exact hfl.of_agent rfl rfl hs (by simp)
  | @cacheDrop a ht =>
    have hs := cacheDropTurn_soils (s := s.takeTurn) a
    rw [cacheDropTurn_frame] at hs ⊢
    exact hfl.of_agent rfl rfl hs (by simp)
  | mac ht => unfold macTurn; split <;> exact hfl.of_cache_eq rfl rfl rfl
  | timer ht => rw [timerTurn_frame]; exact hfl.of_cache_eq rfl rfl rfl

end

/-! ## No step makes a line over an RX buffer dirty (R326 (c), R338, R339) -/

theorem RxAtL2.soils_rings {s v : State} {todo : List Nat} (hp : RxAtL2 s v todo) (h : s.cfg.Launched)
    (hph : s.phaseOk = true) (hrx : s.rxCur < s.cfg.rxCap) (hout : s.rxOut = true → s.rxOutSlot = s.rxCur) :
    Store.Soils s.cfg.bothRings s.store v.store := by
  rcases hp with ⟨-, rfl⟩ | ⟨hp', -, rfl⟩
  · exact .of_cache_eq rfl
  · have hslot := hout (by simpa only [State.phaseOk, hp'] using hph)
    refine (Store.Soils.afterRead s.cfg s.store _).trans (.cpuWrite s.cfg _ _ _ ?_)
    rw [s.releaseSlot_eq, hslot]
    exact h.lineOf_mem_bothRings .rx hrx h.words_pos

section
variable {s t u : State} {i : Instr} (h : s.cfg.Launched)
include h

theorem ringInitStep_soils {r : Ring} {p : RingPhase} {q : Option RingPhase} (hr : ringInitStep r p s = (u, q)) :
    Store.Soils s.cfg.bothRings s.store u.store := by
  cases p with
  | i2 =>
    cases hr
    refine .cpuWriteAll s.cfg s.store _ fun w hw => ?_
    obtain ⟨j, k, hj, hk, rfl⟩ := mem_zeroWrites.mp hw
    exact h.lineOf_mem_bothRings r hj hk
  | i3 =>
    cases r with
    | tx => cases hr; exact .of_cache_eq rfl
    | rx =>
      cases hr
      refine .cpuWriteAll s.cfg s.store _ fun w hw => ?_
      obtain ⟨j, hj, rfl⟩ := mem_armWrites.mp hw
      exact h.lineOf_mem_bothRings .rx hj h.bufWord_lt
  | i4 =>
    cases hr
    have hcap := (capacityOk_bounds (s.cfg.ring_of_wellFormed r h.wf).1).1
    exact (Store.Soils.afterRead s.cfg s.store _).trans
      (.cpuWrite s.cfg _ _ _ (h.lineOf_mem_bothRings r (by omega) h.words_pos))
  | i5 todo =>
    simp only [ringInitStep] at hr
    split at hr
    · cases hr
      exact .of_cache_eq rfl
    · cases hr
      exact .lineOp s.cfg s.store .flush _
  | i6 =>
    cases hr
    cases r <;> exact .of_cache_eq rfl

/-- A phase makes ring lines dirty and no others. -/
theorem CommandStep.soils_rings (hs : s.sound = true) (hf : Free i s) (hc : CommandStep i s t) :
    Store.Soils s.cfg.bothRings s.store t.store := by
  obtain ⟨hseq, hph, hcur, -⟩ := s.sound_iff.mp hs
  obtain ⟨htx, hrx, hout⟩ := s.cursorsOk_iff.mp hcur
  have hread {x : Store} (a : Word) (hx : Store.Soils s.cfg.bothRings s.store x) :
      Store.Soils s.cfg.bothRings s.store (x.afterRead s.cfg a) := hx.trans (.afterRead s.cfg x a)
  cases hc with
  | ringGoesOn hp hr | ringEnds hp hr | startTxRing hp hr | startTxRingEnds hp hr | startRxRing hp hr
  | startRxRingEnds hp hr =>
    have hu := ringInitStep_soils h hr
    exact hu
  | @marked r k _ hp =>
    have hlast : k + 1 = s.cfg.cap r := by
      rcases hf with ho | ho
      · simpa [State.phaseOk, hp, ho] using hph
      · simp [(idle_of_seqOk hseq ho).2.1] at hp
    exact (Store.Soils.afterRead s.cfg s.store _).trans
      (.cpuWrite s.cfg _ _ _ (h.lineOf_mem_bothRings r (by omega) h.words_pos))
  | txAddress hp => exact .cpuWrite s.cfg s.store _ _ (h.lineOf_mem_bothRings .tx htx h.bufWord_lt)
  | txWord0 hp => exact .cpuWrite s.cfg s.store _ _ (s.txSlot_eq ▸ h.lineOf_mem_bothRings .tx htx h.words_pos)
  | flushLine hp ho | invalidateLine hp ho | txT1Line hp ho | txT3Line hp ho | txT5Line hp ho | txT7Line hp ho
  | rxP1Line hp ho =>
    have hu := ho.soils (L := s.cfg.bothRings)
    exact hu
  | flushEnds hp ho | invalidateEnds hp ho | txT3Ends hp ho | txT5Ends hp ho =>
    have hu := ho.soils (L := s.cfg.bothRings)
    exact hu
  | txNoDesc hp ho hw | txSlotFree hp ho hw | txDone hp ho hw | rxNoPacket hp ho hw =>
    exact ho.cfg_eq ▸ hread _ ho.soils
  | txTimeout hp ho hw he | txWaits hp ho hw he | rxPacket hp ho hw he =>
    exact ho.cfg_eq ▸ hread _ ho.soils
  | rxP2Line hp ho =>
    have hu := hp.rests (drop := False).soils.trans ho.soils
    exact hu.mono (by simp)
  | rxP2Ends hp ho =>
    have hu := hp.rests (drop := False).soils.trans ho.soils
    exact hu.mono (by simp)
  | rxL2Line hp ho =>
    have hu := (hp.soils_rings h hph hrx hout).trans ho.soils
    exact hu
  | rxL2Ends hp ho =>
    have hu := (hp.soils_rings h hph hrx hout).trans ho.soils
    exact hu
  | stopMac hp =>
    rw [State.stopMac_frame]
    exact .of_cache_eq rfl
  | linkEnds hp hr | startLinkApplied hp hr => exact .of_cache_eq (by simp [State.linkWrite])
  | startReset | startMac | startIer | startRegisters | startEnables | setMacEnds =>
    exact .of_cache_eq (by
      simp [State.startReset, State.programMac, State.programRings, State.enableMac, State.setMac])
  | _ => exact .of_cache_eq rfl

end

/-- The step is a store of the caller's into the line. -/
def State.StoresInto (s : State) (l : Nat) : Prop :=
  ∃ pick phy index v, s.nextTurn = .software pick phy ∧ s.op = none ∧ s.takeTurn.nextRequest = .store index v ∧
    l = s.cfg.lineOf (wordIndexAddr index).toNat

/-- Every step makes ring lines dirty, and the line of the caller's store. -/
theorem step_soils {s t : State} (h : s.cfg.Launched) (hs : s.sound = true) (hstep : step s = .next t) {l : Nat}
    (hd : t.store.dirtyAt l = true) :
    s.store.dirtyAt l = true ∨ l ∈ s.cfg.bothRings ∨ s.StoresInto l := by
  have hrest {L : List Nat} (hsoil : Store.Soils L s.store t.store) (hL : ∀ l ∈ L, l ∈ s.cfg.bothRings) :
      s.store.dirtyAt l = true ∨ l ∈ s.cfg.bothRings ∨ s.StoresInto l :=
    (hsoil l hd).imp id fun hl => .inl (hL l hl)
  have hnone (hsoil : Store.Soils [] s.store t.store) := hrest hsoil (by simp)
  cases step_cases hstep with
  | runs ht ho hc => exact hrest (hc.soils_rings (s := s.turned _ _) h hs (.inl ho)) fun _ hl => hl
  | starts ht ho hb hc =>
    exact hrest (hc.soils_rings (s := (s.turned _ _).begun _) h (sound_of_begun _ _ _ ho hs) (.inr ho)) fun _ hl => hl
  | illegal ht ho hb | pause ht ho => exact hnone (.of_cache_eq rfl)
  | arg0 ht ho hb | arg1 ht ho hb => exact hnone (.of_cache_eq rfl)
  | load ht ho => exact hnone (.afterRead s.cfg s.store _)
  | @store pick phy index v ht ho hq =>
    have hsoil := Store.Soils.cpuWrite (L := [_]) s.cfg s.store (wordIndexAddr index) v (List.mem_singleton_self _)
    exact (hsoil l hd).imp id fun hl => .inr ⟨_, _, _, _, ht, ho, hq, List.mem_singleton.mp hl⟩
  | txDma ht => exact hnone (.of_cache_eq (by rw [txDmaTurn_frame]; rfl))
  | wire ht => exact hnone (.of_cache_eq (by rw [wireTurn_frame]; rfl))
  | rxDma ht => exact hnone (.of_cache_eq (by rw [rxDmaTurn_frame]; rfl))
  | cacheWriteBack ht => exact hnone (cacheWriteBackTurn_soils (s := s.takeTurn) _ _)
  | cacheFill ht => exact hnone (cacheFillTurn_soils (s := s.takeTurn) _)
  | cacheDrop ht => exact hnone (cacheDropTurn_soils (s := s.takeTurn) _)
  | mac ht => exact hnone (.of_cache_eq (by unfold macTurn; split <;> rfl))
  | timer ht => exact hnone (.of_cache_eq (by rw [timerTurn_frame]; rfl))

/-- The second part of O29. -/
theorem step_keeps_buffersClean {s t : State} (hl : s.cfg.launchOk = true) (hs : s.sound = true)
    (hk : s.contractKept = true) (hb : s.rxBuffersClean = true) (hstep : step s = .next t) : t.rxBuffersClean = true := by
  have h := Config.launched_of_launchOk hl
  have hst := (s.sound_iff.mp hs).2.2.2.2.2
  have hst' := (t.sound_iff.mp (stepKeepsSound s t hs hstep)).2.2.2.2.2
  have hcfg : t.cfg = s.cfg := stepKeepsConfiguration s t hstep
  refine (t.rxBuffersClean_iff (State.cache_wf_of_storeOk hst')).mpr fun l hd hmem => ?_
  rw [hcfg] at hmem
  rcases step_soils h hs hstep hd with hds | hring | ⟨pick, phy, index, v, ht, ho, hq, rfl⟩
  · exact (s.rxBuffersClean_iff (State.cache_wf_of_storeOk hst)).mp hb l hds hmem
  · obtain ⟨r, hr⟩ := (s.cfg.mem_bothRings l).mp hring
    exact h.bufsApart r l hr hmem
  · exact State.store_avoids hk ht ho hq (List.mem_append_right _ hmem)

end Sys2Proof.Machine


/-! PROOFS. The TX slots (10_state.md R32, R33 (c) and (d), R26; 42_tx.md R182, R200): what each step of a well-started ring
makes of the slot at the cursor, by where TX_SUBMIT and the TX DMA agent are on it. -/

namespace Sys2Proof.Machine

/-! ## One slot -/

/-- Where the running TX_SUBMIT is on the slot at the cursor: not past T1, at T2 to T4 with the word 0 it read, at T5, at
T6 or T7, at T8. -/
inductive TxPlace where
  | away | filling (w : Word) | publishing | waiting | finished

def txPlace : Phase → TxPlace
  | .txT2 w => .filling w
  | .txT3 w _ => .filling w
  | .txT4 w => .filling w
  | .txT5 _ => .publishing
  | .txT6 => .waiting
  | .txT7 _ => .waiting
  | .txT8 => .finished
  | _ => .away

/-- The TX DMA agent is part-way through a slot. -/
def State.txBusy (s : State) : Bool := s.txd != .idle

/-- `State.txSlotsOk` on the slot at the cursor. -/
structure TxCell (c : Config) (g : TxPlace) (busy : Bool) (p : Cell) : Prop where
  fresh : p.dirty = false → c.own p.ram = true → c.own p.view = true
  agent : busy = true → c.own p.ram = true
  filling : ∀ w, g = .filling w → c.own p.ram = false ∧ c.own p.view = false
  publishing : g = .publishing → p.dirty = true → c.own p.ram = false ∧ c.own p.view = true
  finished : g = .finished → c.own p.ram = false ∧ c.own p.view = false

/-- The slot's word 0 is dirty only between T2 and T5 (R33 (d)). -/
def TxPlace.mayBeDirty : TxPlace → Bool
  | .filling _ => true
  | .publishing => true
  | _ => false

/-- What a step makes of the slot at the cursor. -/
inductive TxMove (c : Config) : TxPlace → Bool → Cell → TxPlace → Bool → Cell → Prop
  | settles {g b p q} (h : Cell.Settles False p q) : TxMove c g b p g b q
  | soils {w b p q} (h : Cell.Settles False p.soil q) : TxMove c (.filling w) b p (.filling w) b q
  | takes {w b p q} (h : Cell.Settles False p q) (hv : c.own q.view = false) : TxMove c .away b p (.filling w) b q
  | publishes {w b p q v} (hv : c.own v = true) (h : Cell.Settles False (p.wrote c.coherent v) q) :
      TxMove c (.filling w) b p .publishing b q
  | flushed {b p q} (h : Cell.Settles False p q) (hd : q.dirty = false) : TxMove c .publishing b p .waiting b q
  | done {b p q} (h : Cell.Settles False p q) (hv : c.own q.view = false) : TxMove c .waiting b p .finished b q
  | timeout {b p q} (h : Cell.Settles False p q) (hv : c.own q.view = true) : TxMove c .waiting b p .away b q
  | fetches {g p} (hr : c.own p.ram = true) : TxMove c g false p g true p
  | completes {g p q v} (hv : c.own v = false) (h : Cell.Overwrites v p q) : TxMove c g true p g false q

section
variable {c : Config} {g g' : TxPlace} {b b' : Bool} {p q : Cell}

/-- A clean word that settles has its word in memory. -/
theorem Cell.Settles.of_clean {drop : Prop} (h : Cell.Settles drop p q) (hd : p.dirty = false) :
    q = p ∨ q = .clean p.ram := by
  rcases h with rfl | ⟨h, -⟩ | ⟨-, rfl⟩
  · exact .inl rfl
  · simp [hd] at h
  · exact .inr rfl

theorem Cell.Settles.ram_of_clean {drop : Prop} (h : Cell.Settles drop p q) (hd : p.dirty = false) : q.ram = p.ram := by
  rcases h.of_clean hd with rfl | rfl <;> rfl

theorem Cell.Settles.of_dirty (h : Cell.Settles False p q) (hd : p.dirty = true) : q = p ∨ q = .clean p.view := by
  rcases h with rfl | ⟨-, rfl⟩ | ⟨hn, -⟩
  · exact .inl rfl
  · exact .inr rfl
  · exact absurd (hn hd) id

theorem TxCell.fresh_clean (v : Word) : (Cell.clean v).dirty = false → c.own (Cell.clean v).ram = true →
    c.own (Cell.clean v).view = true := fun _ h => h

/-- The slot is not with the agent while TX_SUBMIT fills it. -/
theorem TxCell.not_busy {w : Word} (h : TxCell c (.filling w) b p) : b = false := by
  cases b with
  | false => rfl
  | true =>
    have hr := h.agent rfl
    rw [(h.filling w rfl).1] at hr
    cases hr

/-- A step that settles the slot keeps the discipline, and the slot's own flag in memory changes only when the published
word reaches memory. -/
theorem TxCell.settles (h : TxCell c g b p) (hclean : p.dirty = true → g.mayBeDirty = true) (hs : Cell.Settles False p q) :
    TxCell c g b q := by
  cases hd : p.dirty with
  | false =>
    rcases hs.of_clean hd with rfl | rfl
    · exact h
    · exact ⟨fun _ hr => hr, h.agent, fun w hw => ⟨(h.filling w hw).1, (h.filling w hw).1⟩, nofun,
        fun hg => ⟨(h.finished hg).1, (h.finished hg).1⟩⟩
  | true =>
    rcases hs.of_dirty hd with rfl | rfl
    · exact h
    · refine ⟨fun _ hr => hr, fun hb => ?_, fun w hw => ⟨(h.filling w hw).2, (h.filling w hw).2⟩, nofun,
        fun hg => ⟨(h.finished hg).2, (h.finished hg).2⟩⟩
      have hr := h.agent hb
      cases g with
      | filling w => simp [(h.filling w rfl).1] at hr
      | publishing => simp [(h.publishing rfl hd).1] at hr
      | _ => cases hclean hd

/-- A clean slot that the CPU side sees as software's is software's in memory. -/
theorem TxCell.software (h : TxCell c g b p) (hd : p.dirty = false) (hs : Cell.Settles False p q)
    (hv : c.own q.view = false) : c.own p.ram = false ∧ c.own q.ram = false := by
  have hr : c.own p.ram = false := by
    rcases hs.of_clean hd with rfl | rfl
    · by_contra hne
      have := h.fresh hd (by simpa using hne)
      simp [hv] at this
    · exact hv
  exact ⟨hr, hs.ram_of_clean hd ▸ hr⟩

theorem TxMove.keeps (hm : TxMove c g b p g' b' q) (h : TxCell c g b p) (hclean : p.dirty = true → g.mayBeDirty = true) :
    TxCell c g' b' q := by
  have hfalse {P : Prop} (e : p.dirty = true) (hg : g.mayBeDirty = false) : P := by simp [hclean e] at hg
  cases hm with
  | settles hs => exact h.settles hclean hs
  | @soils w _ _ _ hs =>
    have hsoil : TxCell c (.filling w) b p.soil := ⟨nofun, h.agent, h.filling, nofun,
      nofun⟩
    exact hsoil.settles (fun _ => rfl) hs
  | takes hs hv =>
    have hd : p.dirty = false := by
      cases e : p.dirty with
      | false => rfl
      | true => exact hfalse e rfl
    obtain ⟨hr, hr'⟩ := h.software hd hs hv
    refine ⟨fun _ e => by simp [hr'] at e, fun hb => ?_, fun _ _ => ⟨hr', hv⟩, nofun, nofun⟩
    have := h.agent hb
    simp [hr] at this
  | @publishes w _ _ _ v hv hs =>
    have hb := h.not_busy
    have hw : TxCell c .publishing b (p.wrote c.coherent v) := by
      unfold Cell.wrote
      split
      · exact ⟨fun _ e => e, fun _ => hv, nofun, nofun, nofun⟩
      · exact ⟨nofun, fun e => by simp [hb] at e, nofun,
          fun _ _ => ⟨(h.filling w rfl).1, hv⟩, nofun⟩
    exact hw.settles (fun _ => rfl) hs
  | flushed hs hd =>
    have hq := h.settles hclean hs
    exact ⟨hq.fresh, hq.agent, nofun, nofun, nofun⟩
  | done hs hv =>
    have hd : p.dirty = false := by
      cases e : p.dirty with
      | false => rfl
      | true => exact hfalse e rfl
    have hq := h.settles hclean hs
    obtain ⟨-, hr'⟩ := h.software hd hs hv
    exact ⟨hq.fresh, hq.agent, nofun, nofun, fun _ => ⟨hr', hv⟩⟩
  | timeout hs hv =>
    have hq := h.settles hclean hs
    exact ⟨hq.fresh, hq.agent, nofun, nofun, nofun⟩
  | fetches hr => exact ⟨h.fresh, fun _ => hr, h.filling, h.publishing, h.finished⟩
  | @completes _ _ _ v hv ho =>
    have hr := h.agent rfl
    refine ⟨fun _ e => absurd (ho.ram ▸ e) (by simp [hv]), nofun, fun w hw => ?_, fun hg hd => ?_, fun hg => ?_⟩
    · simp [(h.filling w hw).1] at hr
    · rw [ho.dirty] at hd
      simp [(h.publishing hg hd).1] at hr
    · simp [(h.finished hg).1] at hr

/-- The state of a slot that memory gives to hardware (R32). -/
@[simp] def TxPlace.owned : TxPlace → TxSlot
  | .away => .stuck
  | _ => .hw

/-- The state of a slot that memory gives to software (R32). -/
@[simp] def TxPlace.given (dirty : Bool) : TxPlace → TxSlot
  | .away => .free
  | .filling _ => .filling
  | .publishing => if dirty then .filling else .done
  | .waiting => .done
  | .finished => .done

/-- The slot's state (R32). -/
def txState (c : Config) (g : TxPlace) (p : Cell) : TxSlot := if c.own p.ram then g.owned else g.given p.dirty

theorem TxCell.state_settles (h : TxCell c g b p) (hclean : p.dirty = true → g.mayBeDirty = true)
    (hs : Cell.Settles False p q) :
    txState c g q = txState c g p ∨ (txState c g p = .filling ∧ txState c g q = .hw) := by
  cases hd : p.dirty with
  | false =>
    rcases hs.of_clean hd with rfl | rfl
    · exact .inl rfl
    · left
      rw [txState, txState, hd]
      rfl
  | true =>
    rcases hs.of_dirty hd with rfl | rfl
    · exact .inl rfl
    · cases g with
      | filling w => left; simp [txState, Cell.clean, h.filling w rfl]
      | publishing => right; simp [txState, Cell.clean, h.publishing rfl hd, hd]
      | _ => cases hclean hd

/-- What a step makes of the slot's state, by what moves: nothing but word 0, the agent when it completes the slot, or
TX_SUBMIT when it gives up. -/
def TxShift (g g' : TxPlace) (b b' : Bool) (x y : TxSlot) : Prop :=
  ((b = true → b' = true) ∧ (y = x ∨ (x, y) ∈ [(TxSlot.free, TxSlot.filling), (.filling, .hw)])) ∨
  (b = true ∧ b' = false ∧ (x, y) ∈ [(TxSlot.hw, TxSlot.done), (.stuck, .free)]) ∨
  (g = .waiting ∧ g' = .away ∧ (x, y) ∈ [(TxSlot.hw, TxSlot.stuck), (.done, .free)])

theorem TxShift.same {x y : TxSlot} (h : y = x) : TxShift g g' b b x y := .inl ⟨id, .inl h⟩

theorem TxMove.shift (hm : TxMove c g b p g' b' q) (h : TxCell c g b p)
    (hclean : p.dirty = true → g.mayBeDirty = true) : TxShift g g' b b' (txState c g p) (txState c g' q) := by
  have hnd (hg : g.mayBeDirty = false) : p.dirty = false := by
    cases e : p.dirty with
    | false => rfl
    | true => simp [hclean e] at hg
  cases hm with
  | settles hs => exact .inl ⟨id, (h.state_settles hclean hs).imp id fun ⟨h1, h2⟩ => by simp [h1, h2]⟩
  | @soils w _ _ _ hs =>
    have hq := hs.both (P := fun v => c.own v = false) (h.filling w rfl).1 (h.filling w rfl).2
    exact .same (by simp [txState, (h.filling w rfl).1, hq.1])
  | takes hs hv =>
    obtain ⟨hr, hr'⟩ := h.software (hnd rfl) hs hv
    exact .inl ⟨id, .inr (by simp [txState, hr, hr'])⟩
  | @publishes w _ _ _ v hv hs =>
    have hp : txState c (.filling w) p = .filling := by simp [txState, (h.filling w rfl).1]
    refine .inl ⟨id, ?_⟩
    rw [hp]
    unfold Cell.wrote at hs
    split at hs
    · rcases hs.of_clean rfl with rfl | rfl <;> simp [txState, Cell.clean, hv]
    · rcases hs.of_dirty rfl with rfl | rfl
      · simp [txState, (h.filling w rfl).1]
      · simp [txState, Cell.clean, hv]
  | flushed hs hd =>
    have hsame : txState c .waiting q = txState c .publishing q := by simp [txState, hd, TxPlace.owned]
    rw [hsame]
    exact .inl ⟨id, (h.state_settles hclean hs).imp id fun ⟨h1, h2⟩ => by simp [h1, h2]⟩
  | done hs hv =>
    obtain ⟨hr, hr'⟩ := h.software (hnd rfl) hs hv
    exact .same (by simp [txState, hr, hr'])
  | timeout hs hv =>
    have hr := hs.ram_of_clean (hnd rfl)
    refine .inr (.inr ⟨rfl, rfl, ?_⟩)
    cases ho : c.own p.ram <;> simp [txState, hr, ho]
  | fetches hr => exact .inl ⟨nofun, .inl rfl⟩
  | @completes _ _ _ v hv ho =>
    have hr := h.agent rfl
    have hq : c.own q.ram = false := by rw [ho.ram, hv]
    refine .inr (.inl ⟨rfl, rfl, ?_⟩)
    cases g with
    | filling w => simp [(h.filling w rfl).1] at hr
    | publishing =>
      have hd : q.dirty = false := by
        rw [ho.dirty]
        by_contra e
        simp [(h.publishing rfl (by simpa using e)).1] at hr
      simp [txState, hr, hq, hd]
    | finished => simp [(h.finished rfl).1] at hr
    | _ => simp [txState, hr, hq]

/-- R32's transitions. -/
def txTransitions : List (TxSlot × TxSlot) :=
  [(.free, .filling), (.filling, .hw), (.hw, .done), (.done, .free), (.hw, .stuck), (.stuck, .free)]

theorem TxShift.transition {x y : TxSlot} (h : TxShift g g' b b' x y) : y = x ∨ (x, y) ∈ txTransitions := by
  have hsub (l : List (TxSlot × TxSlot)) (hl : l ⊆ txTransitions) (hm : (x, y) ∈ l) : y = x ∨ (x, y) ∈ txTransitions :=
    .inr (hl hm)
  rcases h with ⟨-, h | h⟩ | ⟨-, -, h⟩ | ⟨-, -, h⟩
  · exact .inl h
  · exact hsub _ (by decide) h
  · exact hsub _ (by decide) h
  · exact hsub _ (by decide) h

/-- The agreement of R202, by the slot's state: where the pointer is, and whether the agent is part-way. -/
@[simp] def TxSlot.agrees (busy : Bool) (here next : Prop) : TxSlot → Prop
  | .free => here ∧ busy = false
  | .filling => here ∧ busy = false
  | .hw => here
  | .done => next ∧ busy = false
  | .stuck => False

/-- A slot that memory gives to software is not the agent's. -/
theorem TxCell.idle_of_given (h : TxCell c g b p) (hst : txState c g p ∈ [.free, .filling, .done]) : b = false := by
  cases b with
  | false => rfl
  | true =>
    rw [txState, if_pos (h.agent rfl)] at hst
    cases g <;> simp at hst

/-- A step that does not end TX_SUBMIT with TX_TIMEOUT keeps the agreement: the pointer moves when the agent completes the
slot, and only then. -/
theorem TxMove.agrees (hm : TxMove c g b p g' b' q) (h : TxCell c g b p) (hclean : p.dirty = true → g.mayBeDirty = true)
    {here next here' next' : Prop} (ha : (txState c g p).agrees b here next)
    (hmoved : b = true → b' = false → next') (hstays : (b = true → b' = true) → (here → here') ∧ (next → next'))
    (hnt : g = .waiting → g' ≠ .away) : (txState c g' q).agrees b' here' next' := by
  have hidle := (hm.keeps h hclean).idle_of_given
  rcases hm.shift h hclean with ⟨hb, e | e⟩ | ⟨hb, hb', e⟩ | ⟨hg, hg', -⟩
  · obtain ⟨h1, h2⟩ := hstays hb
    rw [e] at hidle ⊢
    generalize txState c g p = x at *
    cases x with
    | free => exact ⟨h1 ha.1, hidle (by simp)⟩
    | filling => exact ⟨h1 ha.1, hidle (by simp)⟩
    | hw => exact h1 ha
    | done => exact ⟨h2 ha.1, hidle (by simp)⟩
    | stuck => exact ha
  · obtain ⟨h1, -⟩ := hstays hb
    simp only [List.mem_cons, Prod.mk.injEq, List.not_mem_nil, or_false] at e
    rcases e with ⟨e1, e2⟩ | ⟨e1, e2⟩ <;> rw [e1] at ha <;> rw [e2] at hidle ⊢
    · exact ⟨h1 ha.1, hidle (by simp)⟩
    · exact h1 ha.1
  · simp only [List.mem_cons, Prod.mk.injEq, List.not_mem_nil, or_false] at e
    rcases e with ⟨e1, e2⟩ | ⟨e1, e2⟩ <;> rw [e1] at ha <;> rw [e2]
    · exact ⟨hmoved hb hb', hb'⟩
    · exact ha.elim
  · exact absurd hg' (hnt hg)

end

end Sys2Proof.Machine


/-! PROOFS. The TX ring in a step of any agent (10_state.md R32, R33; 42_tx.md R182, R200): the slot at the cursor moves as
`TxMove` says, every other slot stays with software. -/

namespace Sys2Proof.Machine

/-- `State.txSlotsOk` in words of the slots' word 0. -/
structure State.TxSlots (s : State) : Prop where
  cell : TxCell s.cfg (txPlace s.phase) s.txBusy (s.word .tx s.txCur 0)
  pointer : s.txBusy = true → s.txHwptr = s.cfg.ringPtr .tx s.txCur
  others : ∀ i, i < s.cfg.txCap → i ≠ s.txCur →
    s.cfg.own (s.word .tx i 0).ram = false ∧ s.cfg.own (s.word .tx i 0).view = false

theorem txPlace_filling (p : Phase) (w : Word) : txPlace p = .filling w ↔ p.txWord = some w := by
  cases p with
  | txT2 v | txT4 v => exact ⟨fun e => TxPlace.filling.inj e ▸ rfl, fun e => Option.some.inj e ▸ rfl⟩
  | txT3 v todo => exact ⟨fun e => TxPlace.filling.inj e ▸ rfl, fun e => Option.some.inj e ▸ rfl⟩
  | _ => exact ⟨nofun, nofun⟩

theorem filling_iff (p : Phase) (P : Prop) : (∀ w, txPlace p = .filling w → P) ↔ p.txWord = none ∨ P := by
  simp only [txPlace_filling]
  cases p.txWord <;> simp

/-- `State.txOneInFlight` by place. -/
theorem State.txOneInFlight_iff (s : State) : s.txOneInFlight = true ↔
    (∀ i, i < s.cfg.txCap → i ≠ s.txCur →
      s.cfg.own (s.slotWord0 .tx i) = false ∧ s.cfg.own (s.slotView0 .tx i) = false) ∧
    (∀ w, txPlace s.phase = .filling w → s.cfg.own (s.slotView0 .tx s.txCur) = false) ∧
    (txPlace s.phase = .publishing → s.slotDirty .tx s.txCur = true →
      s.cfg.own (s.slotWord0 .tx s.txCur) = false ∧ s.cfg.own (s.slotView0 .tx s.txCur) = true) ∧
    (txPlace s.phase = .finished →
      s.cfg.own (s.slotWord0 .tx s.txCur) = false ∧ s.cfg.own (s.slotView0 .tx s.txCur) = false) := by
  unfold State.txOneInFlight
  rw [Bool.and_eq_true, State.everySlot_iff]
  refine and_congr (forall₂_congr fun i hi => ?_) ?_
  · by_cases hne : i = s.txCur <;> simp [hne]
  · rw [filling_iff]
    generalize s.cfg.own (s.slotWord0 .tx s.txCur) = r
    generalize s.cfg.own (s.slotView0 .tx s.txCur) = v
    generalize s.slotDirty .tx s.txCur = d
    generalize s.phase = p
    cases p with
    | txT2 w | txT4 w =>
      change (!v) = true ↔ _
      exact ⟨fun e => ⟨.inr (by simpa using e), nofun, nofun⟩, fun e => by simpa using e.1.resolve_left nofun⟩
    | txT3 w todo =>
      change (!v) = true ↔ _
      exact ⟨fun e => ⟨.inr (by simpa using e), nofun, nofun⟩, fun e => by simpa using e.1.resolve_left nofun⟩
    | txT5 todo =>
      change (!d || (!r && v)) = true ↔ _
      exact ⟨fun e => ⟨.inl rfl, fun _ hd => by simpa [hd] using e, nofun⟩,
        fun e => by
          cases d with
          | false => rfl
          | true => simpa using e.2.1 rfl rfl⟩
    | txT8 =>
      change (!r && !v) = true ↔ _
      exact ⟨fun e => ⟨.inl rfl, nofun, fun _ => by simpa using e⟩, fun e => by simpa using e.2.2 rfl⟩
    | _ => exact ⟨fun _ => ⟨.inl rfl, nofun, nofun⟩, fun _ => rfl⟩

theorem State.txBusy_iff (s : State) : s.txBusy = true ↔ s.txd ≠ .idle := by simp [State.txBusy]

theorem Config.ringPtr_inj {s : State} (h : s.cfg.Plain) {r : Ring} {i j : Nat} (hi : i < s.cfg.cap r)
    (hj : j < s.cfg.cap r) (he : s.cfg.ringPtr r i = s.cfg.ringPtr r j) : i = j := by
  rw [Config.ringPtr_wordAddr h, Config.ringPtr_wordAddr h] at he
  exact (h.launched.wordAddr_inj hi hj h.launched.words_pos h.launched.words_pos he).2.1

theorem State.txSlotsOk_iff {s : State} (h : s.cfg.Plain) (hs : s.storeOk = true) (hcur : s.txCur < s.cfg.txCap)
    (hat : ∃ i, i < s.cfg.txCap ∧ s.txHwptr = s.cfg.ringPtr .tx i) : s.txSlotsOk = true ↔ s.TxSlots := by
  obtain ⟨j, hj, hp⟩ := hat
  have hptr : s.dmaRead s.txHwptr = (s.word .tx j 0).ram :=
    State.dmaRead_eq h (hp.trans (Config.ringPtr_wordAddr h .tx j)) hj h.launched.words_pos
  have hr {i : Nat} (hi : i < s.cfg.txCap) := State.slotWord0_eq h (r := .tx) hi
  have hv {i : Nat} (hi : i < s.cfg.txCap) := State.slotView0_eq h hs (r := .tx) hi
  have hcarry : (s.phase.txWord.isNone || !s.cfg.own (s.word .tx s.txCur 0).ram) = true ↔
      ∀ w, txPlace s.phase = .filling w → s.cfg.own (s.word .tx s.txCur 0).ram = false := by
    rw [filling_iff]
    simp
  simp only [State.txSlotsOk, State.txFresh, State.txOwned, State.txOneInFlight_iff, State.everySlot_iff,
    Bool.and_eq_true, hptr, hr hcur, hv hcur, State.slotDirty_eq, hcarry]
  constructor
  · rintro ⟨⟨hfresh, hagent, hcar⟩, hothers, hfill, hpub, hfin⟩
    have hoth (i : Nat) (hi : i < s.cfg.txCap) (hne : i ≠ s.txCur) :
        s.cfg.own (s.word .tx i 0).ram = false ∧ s.cfg.own (s.word .tx i 0).view = false := by
      have := hothers i hi hne
      rwa [hr hi, hv hi] at this
    have hbusy (hb : s.txBusy = true) : s.cfg.own (s.word .tx j 0).ram = true := by
      simpa [(s.txBusy_iff.mp hb)] using hagent
    have hjcur (hb : s.txBusy = true) : j = s.txCur := by
      by_contra hne
      have := hbusy hb
      rw [(hoth j hj hne).1] at this
      cases this
    refine ⟨⟨fun hd ho => ?_, fun hb => hjcur hb ▸ hbusy hb, fun w hw => ⟨hcar w hw, hfill w hw⟩, hpub, hfin⟩,
      fun hb => by rw [hp, hjcur hb], hoth⟩
    have := hfresh s.txCur hcur
    rw [hr hcur, hv hcur] at this
    simpa [hd, ho] using this
  · rintro ⟨hcell, hpointer, hoth⟩
    refine ⟨⟨fun i hi => ?_, ?_, fun w hw => (hcell.filling w hw).1⟩, fun i hi hne => ?_,
      fun w hw => (hcell.filling w hw).2, hcell.publishing, hcell.finished⟩
    · rw [hr hi, hv hi]
      by_cases hne : i = s.txCur
      · subst hne
        have := hcell.fresh
        revert this
        cases (s.word .tx s.txCur 0).dirty <;> cases s.cfg.own (s.word .tx s.txCur 0).ram <;>
          cases s.cfg.own (s.word .tx s.txCur 0).view <;> simp
      · simp [(hoth i hi hne).1]
    · by_cases hd : s.txd = .idle
      · simp [hd]
      · have hb := s.txBusy_iff.mpr hd
        have hjc := Config.ringPtr_inj h hj hcur (hp.symm.trans (hpointer hb))
        simp [hjc, hcell.agent hb]
    · rw [hr hi, hv hi]
      exact hoth i hi hne

/-- A word that keeps what held of it on both sides. -/
def Cell.Keeps (p q : Cell) : Prop := ∀ P : Word → Prop, P p.ram → P p.view → P q.ram ∧ P q.view

/-- What a step of any agent makes of the TX ring. -/
inductive TxStep (s t : State) : Prop
  | moves (hcur : t.txCur = s.txCur)
      (hm : TxMove s.cfg (txPlace s.phase) s.txBusy (s.word .tx s.txCur 0)
        (txPlace t.phase) t.txBusy (t.word .tx s.txCur 0))
      (ho : ∀ i, i < s.cfg.txCap → i ≠ s.txCur → Cell.Keeps (s.word .tx i 0) (t.word .tx i 0))
      (hpm : s.txBusy = true → t.txBusy = false → t.txHwptr = s.cfg.ringPtr .tx (s.cfg.advance .tx s.txCur))
      (hps : (s.txBusy = true → t.txBusy = true) → t.txHwptr = s.txHwptr)
      (hpf : t.txBusy = true → t.txHwptr = s.cfg.ringPtr .tx s.txCur)
      (hnt : txPlace s.phase = .waiting → txPlace t.phase = .away →
        s.op = some .txSubmit ∧ t.op = none ∧ t.statusCode = 0x02#8)
  | ends (h0 : txPlace s.phase = .finished) (h1 : txPlace t.phase = .away) (hcur : t.txCur = s.cfg.advance .tx s.txCur)
      (hw : ∀ i, t.word .tx i 0 = s.word .tx i 0) (hb : t.txBusy = s.txBusy) (hp : t.txHwptr = s.txHwptr)

/-- Every step keeps the discipline of the TX ring. -/
theorem TxStep.keeps {s t : State} (h : TxStep s t) (hs : s.TxSlots) (hcfg : t.cfg = s.cfg) (hcur : s.txCur < s.cfg.txCap)
    (hclean : (s.word .tx s.txCur 0).dirty = true → (txPlace s.phase).mayBeDirty = true) : t.TxSlots := by
  cases h with
  | moves hc hm ho hpm hps hpf hnt =>
    refine ⟨?_, ?_, ?_⟩
    · rw [hcfg, hc]
      exact hm.keeps hs.cell hclean
    · rw [hcfg, hc]
      exact hpf
    · rw [hcfg, hc]
      intro i hi hne
      obtain ⟨h1, h2⟩ := hs.others i hi hne
      exact ho i hi hne (fun v => s.cfg.own v = false) h1 h2
  | ends h0 h1 hc hw hb hp =>
    have hfin := hs.cell.finished h0
    have hfree (i : Nat) (hi : i < s.cfg.txCap) :
        s.cfg.own (s.word .tx i 0).ram = false ∧ s.cfg.own (s.word .tx i 0).view = false := by
      by_cases hne : i = s.txCur
      · exact hne ▸ hfin
      · exact hs.others i hi hne
    have hidle : t.txBusy = false := by
      rw [hb]
      by_contra hbusy
      have := hs.cell.agent (by simpa using hbusy)
      rw [hfin.1] at this
      cases this
    have hlt : s.cfg.advance .tx s.txCur < s.cfg.txCap := Nat.mod_lt _ (Nat.zero_lt_of_lt hcur)
    refine ⟨?_, fun hb' => by simp [hidle] at hb', fun i hi _ => ?_⟩
    · rw [hcfg, hc, hw, h1, hidle]
      exact ⟨fun _ e => by simp [(hfree _ hlt).1] at e, nofun, nofun, nofun, nofun⟩
    · rw [hcfg] at hi ⊢
      rw [hw]
      exact hfree i hi

/-! ## The slots' states (R32) -/

/-- Only TX_SUBMIT is at one of its phases. -/
theorem txPlace_of_other {i : Instr} {p : Phase} (hl : later i p = true) (hi : i ≠ .txSubmit) : txPlace p = .away := by
  cases p <;> first | rfl | skip
  all_goals cases i <;> first | exact absurd hl Bool.false_ne_true | exact absurd rfl hi

theorem State.txPlace_of_idle {s : State} (hs : s.seqOk = true) (ho : s.op ≠ some .txSubmit) : txPlace s.phase = .away := by
  cases hop : s.op with
  | none => rw [(idle_of_seqOk hs hop).2.1]; rfl
  | some i => exact txPlace_of_other (running_of_seqOk hs hop).2.1 fun e => ho (e ▸ hop)

/-- The state of a slot from what memory gives it and how far TX_SUBMIT is on it. -/
theorem State.txSlotState_of_stage {s : State} {i : Nat} {p : Phase} (hs : s.stageOf i = txStage p) {x : Cell}
    (hr : s.slotWord0 .tx i = x.ram) (hd : s.slotDirty .tx i = x.dirty) :
    s.txSlotState i = txState s.cfg (txPlace p) x := by
  unfold State.txSlotState txState
  rw [hs, hr, hd]
  cases p <;> rfl

theorem State.txSlotState_eq {s : State} (h : s.cfg.Plain) (hs : s.seqOk = true) {i : Nat} (hi : i < s.cfg.txCap) :
    s.txSlotState i = txState s.cfg (if i = s.txCur then txPlace s.phase else .away) (s.word .tx i 0) := by
  have hst {p : Phase} (e : s.stageOf i = txStage p) : s.txSlotState i = txState s.cfg (txPlace p) (s.word .tx i 0) :=
    State.txSlotState_of_stage e (State.slotWord0_eq h hi) (s.slotDirty_eq .tx i)
  by_cases hc : i = s.txCur
  · rw [if_pos hc]
    by_cases ho : s.op = some .txSubmit
    · exact hst (by rw [State.stageOf, if_pos ⟨ho, hc⟩])
    · rw [State.txPlace_of_idle hs ho]
      exact hst (p := .first) (by rw [State.stageOf, if_neg fun e => ho e.1]; rfl)
  · rw [if_neg hc]
    exact hst (p := .first) (by rw [State.stageOf, if_neg fun e => hc e.2]; rfl)

/-- R32 for every slot in a step. -/
theorem TxStep.transition {s t : State} (h : TxStep s t) (hs : s.TxSlots) (hplain : s.cfg.Plain) (hcfg : t.cfg = s.cfg)
    (hseq : s.seqOk = true) (hseq' : t.seqOk = true)
    (hclean : (s.word .tx s.txCur 0).dirty = true → (txPlace s.phase).mayBeDirty = true) {i : Nat} (hi : i < s.cfg.txCap) :
    t.txSlotState i = s.txSlotState i ∨ (s.txSlotState i, t.txSlotState i) ∈ txTransitions := by
  have hfree {x : Cell} (hx : s.cfg.own x.ram = false) : txState s.cfg .away x = .free := by simp [txState, hx]
  rw [State.txSlotState_eq hplain hseq hi, State.txSlotState_eq (hcfg ▸ hplain) hseq' (hcfg ▸ hi), hcfg]
  cases h with
  | moves hc hm ho hpm hps hpf hnt =>
    rw [hc]
    by_cases hne : i = s.txCur
    · rw [if_pos hne, if_pos hne, hne]
      exact (hm.shift hs.cell hclean).transition
    · obtain ⟨h1, h2⟩ := hs.others i hi hne
      have hq := ho i hi hne (fun v => s.cfg.own v = false) h1 h2
      rw [if_neg hne, if_neg hne, hfree h1, hfree hq.1]
      exact .inl rfl
  | ends h0 h1 hc hw hb hp =>
    rw [hw, h1, ite_self]
    by_cases hne : i = s.txCur
    · have hr := (hs.cell.finished h0).1
      rw [if_pos hne, h0, hne, hfree hr]
      exact .inr (by simp [txState, hr, txTransitions])
    · rw [if_neg hne]
      exact .inl rfl

/-! ## The pointer and the cursor (R33 (e), R202) -/

theorem State.txInStep_iff {s : State} : s.txInStep = true ↔
    (s.txSlotState s.txCur).agrees s.txBusy (s.txHwptr = s.cfg.ringPtr .tx s.txCur)
      (s.txHwptr = s.cfg.ringPtr .tx (s.cfg.advance .tx s.txCur)) := by
  unfold State.txInStep State.txBusy
  cases s.txSlotState s.txCur <;> simp

theorem TxStep.inStep {s t : State} (h : TxStep s t) (hs : s.TxSlots) (hplain : s.cfg.Plain) (hcfg : t.cfg = s.cfg)
    (hseq : s.seqOk = true) (hseq' : t.seqOk = true) (hcur : s.txCur < s.cfg.txCap)
    (hclean : (s.word .tx s.txCur 0).dirty = true → (txPlace s.phase).mayBeDirty = true) (hin : s.txInStep = true) :
    t.txInStep = true ∨ (s.op = some .txSubmit ∧ t.op = none ∧ t.statusCode = 0x02#8) := by
  rw [State.txInStep_iff, State.txSlotState_eq hplain hseq hcur, if_pos rfl] at hin
  have hlt : s.cfg.advance .tx s.txCur < s.cfg.txCap := Nat.mod_lt _ (Nat.zero_lt_of_lt hcur)
  cases h with
  | moves hc hm ho hpm hps hpf hnt =>
    by_cases hto : txPlace s.phase = .waiting ∧ txPlace t.phase = .away
    · exact .inr (hnt hto.1 hto.2)
    · left
      rw [State.txInStep_iff, State.txSlotState_eq (hcfg ▸ hplain) hseq' (by rw [hc, hcfg]; exact hcur), if_pos rfl, hc,
        hcfg]
      refine hm.agrees hs.cell hclean hin hpm (fun e => ?_) fun e e' => hto ⟨e, e'⟩
      rw [hps e]
      exact ⟨id, id⟩
  | ends h0 h1 hc hw hb hp =>
    left
    have hr := (hs.cell.finished h0).1
    have hfree : s.cfg.own (s.word .tx (s.cfg.advance .tx s.txCur) 0).ram = false := by
      by_cases hne : s.cfg.advance .tx s.txCur = s.txCur
      · rw [hne]
        exact hr
      · exact (hs.others _ hlt hne).1
    rw [State.txInStep_iff, State.txSlotState_eq (hcfg ▸ hplain) hseq' (by rw [hc, hcfg]; exact hlt), if_pos rfl, hc,
      hcfg, hw, h1, hb, hp]
    have hdone : txState s.cfg (txPlace s.phase) (s.word .tx s.txCur 0) = .done := by simp [txState, h0, hr]
    have hst : txState s.cfg .away (s.word .tx (s.cfg.advance .tx s.txCur) 0) = .free := by simp [txState, hfree]
    rw [hdone] at hin
    rw [hst]
    exact hin

end Sys2Proof.Machine


/-! PROOFS. Every step of every agent moves the TX ring as `TxStep` says (42_tx.md R182, R200), and with it R32 and the
agreement of R202. -/

namespace Sys2Proof.Machine

/-! ## Words of the rings through a step -/

section
variable {s t : State} {i : Instr}

/-- Where nothing is written, every ring word settles: what a phase discards is no ring word's. -/
theorem State.Flushed.settles (hfl : s.Flushed) (h : s.cfg.Plain) (hcfg : t.cfg = s.cfg)
    (hr : Store.Rests s.cfg (s.unflushed = []) s.store t.store) {r : Ring} {j k : Nat} (hj : j < s.cfg.cap r)
    (hk : k < s.cfg.descWords) : Cell.Settles False (s.word r j k) (t.word r j k) := by
  have hs := hr.settled _ (h.launched.wordAddr_aligned r hj hk)
  rw [State.word, State.word, hcfg]
  refine hs.imp id (Or.imp id fun ⟨hd, e⟩ => ⟨fun hdirty => ?_, e⟩)
  have hm := hfl _ ((Store.copyAt_dirty ..).symm.trans hdirty) (h.launched.lineOf_mem_bothRings r hj hk)
  rw [hd hdirty] at hm
  cases hm

/-- A line that is left to flush is one of the slot that the command works on. -/
theorem Underway.unflushed_cases (hu : Underway i s) {l : Nat} (hl : l ∈ s.unflushed) :
    ((txPlace s.phase).mayBeDirty = true ∧ l ∈ s.cfg.linesOfRing .tx) ∨
    (∃ todo, s.phase = .rxL2Lines todo ∧ s.rxOut = true ∧ l ∈ s.cfg.lines s.releaseSlot.toNat s.cfg.descSize ∧
      l ∈ s.cfg.linesOfRing .rx) := by
  have htx (hm : l ∈ s.cfg.syncLines s.txSlot s.cfg.descSize) : l ∈ s.cfg.linesOfRing .tx :=
    hu.plain.launched.slot_lines_subset .tx hu.cursors.1 (mem_lines_of_sync (.refl _) hm)
  have hph := hu.phaseOk
  unfold State.unflushed at hl
  split at hl
  · next hp => exact .inl ⟨by rw [hp]; rfl, htx hl⟩
  · next hp => exact .inl ⟨by rw [hp]; rfl, htx hl⟩
  · next hp => exact .inl ⟨by rw [hp]; rfl, htx (List.mem_filter.mp hl).1⟩
  · next todo hp =>
    have hout : s.rxOut = true := by simpa only [State.phaseOk, hp] using hph
    have hm := mem_lines_of_sync (.refl _) (List.mem_filter.mp hl).1
    refine .inr ⟨todo, hp, hout, hm, hu.plain.launched.slot_lines_subset .rx (i := s.rxOutSlot) ?_ hm⟩
    rw [hu.outSlot hout]
    exact hu.cursors.2.1
  · simp at hl

/-- R33 (d): the word 0 at the TX cursor is dirty only from T2 to T5. -/
theorem Underway.tx_clean (hu : Underway i s) (hfl : s.Flushed) {j : Nat} (hj : j < s.cfg.txCap)
    (hd : (s.word .tx j 0).dirty = true) : (txPlace s.phase).mayBeDirty = true := by
  have hline := hu.plain.launched.lineOf_mem_ring .tx hj hu.plain.launched.words_pos
  have hm := hfl _ ((Store.copyAt_dirty ..).symm.trans hd)
    (hu.plain.launched.lineOf_mem_bothRings .tx hj hu.plain.launched.words_pos)
  rcases hu.unflushed_cases hm with ⟨h, -⟩ | ⟨-, -, -, -, h⟩
  · exact h
  · exact absurd h (hu.plain.launched.ringsApart _ hline)

/-- The cursors and the outstanding packet through a phase. -/
theorem CommandStep.keeps_cursors (hc : CommandStep i s t) (hb : rebuilding s.phase = false) :
    (s.phase ≠ .txT8 → t.txCur = s.txCur) ∧ (s.phase ≠ .rxL3 → t.rxCur = s.rxCur) ∧
      (s.phase ≠ .rxL3 → (∀ n b, s.phase ≠ .rxP3 n b) → t.rxOut = s.rxOut ∧ t.rxOutSlot = s.rxOutSlot) := by
  cases hc with
  | ringGoesOn h hr | ringEnds h hr | startTxRing h hr | startTxRingEnds h hr | startRxRing h hr
  | startRxRingEnds h hr => simp [h, rebuilding] at hb
  | flushLine h ho | invalidateLine h ho | txT1Line h ho | txT3Line h ho | txT5Line h ho | txT7Line h ho | rxP1Line h ho =>
    obtain ⟨m, x, rfl⟩ := ho.frame
    exact ⟨fun _ => rfl, fun _ => rfl, fun _ _ => ⟨rfl, rfl⟩⟩
  | flushEnds h ho | invalidateEnds h ho | txT3Ends h ho | txT5Ends h ho =>
    obtain ⟨m, x, rfl⟩ := ho.frame
    exact ⟨fun _ => rfl, fun _ => rfl, fun _ _ => ⟨rfl, rfl⟩⟩
  | txNoDesc h ho hw | txSlotFree h ho hw | txDone h ho hw | rxNoPacket h ho hw =>
    obtain ⟨m, x, rfl⟩ := ho.frame
    exact ⟨fun _ => rfl, fun _ => rfl, fun _ _ => ⟨rfl, rfl⟩⟩
  | txTimeout h ho hw he | txWaits h ho hw he | rxPacket h ho hw he =>
    obtain ⟨m, x, rfl⟩ := ho.frame
    exact ⟨fun _ => rfl, fun _ => rfl, fun _ _ => ⟨rfl, rfl⟩⟩
  | rxP2Line h ho | rxP2Ends h ho =>
    obtain ⟨m, x, rfl⟩ := h.frame
    obtain ⟨m', x', rfl⟩ := ho.frame
    exact ⟨fun _ => rfl, fun _ => rfl, fun _ _ => ⟨rfl, rfl⟩⟩
  | rxL2Line h ho | rxL2Ends h ho =>
    obtain ⟨m, x, rfl⟩ := h.frame
    obtain ⟨m', x', rfl⟩ := ho.frame
    exact ⟨fun _ => rfl, fun _ => rfl, fun _ _ => ⟨rfl, rfl⟩⟩
  | txEnds h => exact ⟨fun e => absurd h e, fun _ => rfl, fun _ _ => ⟨rfl, rfl⟩⟩
  | rxPollEnds h => exact ⟨fun _ => rfl, fun _ => rfl, fun _ e => absurd h (e _ _)⟩
  | rxReleaseEnds h => exact ⟨fun _ => rfl, fun e => absurd h e, fun e => absurd h e⟩
  | stopMac h =>
    rw [State.stopMac_frame]
    exact ⟨fun _ => rfl, fun _ => rfl, fun _ _ => ⟨rfl, rfl⟩⟩
  | linkEnds h hr | startLinkApplied h hr => simp [State.linkWrite]
  | startReset | startMac | startIer | startRegisters | startEnables | setMacEnds =>
    simp [State.startReset, State.programMac, State.programRings, State.enableMac, State.setMac]
  | _ => exact ⟨fun _ => rfl, fun _ => rfl, fun _ _ => ⟨rfl, rfl⟩⟩

/-- A phase leaves the DMA agents' records. -/
theorem CommandStep.keeps_records (hc : CommandStep i s t) : t.txd = s.txd ∧ t.rxd = s.rxd := by
  obtain ⟨o, v, he, hl⟩ := hc.done
  obtain ⟨-, -, -, -, h1, h2, -⟩ := he.fixed
  rw [hl.registers]
  exact ⟨h1, h2⟩

/-! ## A phase of a command on the TX ring -/

/-- A step that leaves the agent and the cursor alone. -/
theorem TxStep.of_move (hs : s.TxSlots) (hcur : t.txCur = s.txCur) (hd : t.txd = s.txd) (hp : t.txHwptr = s.txHwptr)
    (hm : TxMove s.cfg (txPlace s.phase) s.txBusy (s.word .tx s.txCur 0)
      (txPlace t.phase) s.txBusy (t.word .tx s.txCur 0))
    (ho : ∀ j, j < s.cfg.txCap → j ≠ s.txCur → Cell.Keeps (s.word .tx j 0) (t.word .tx j 0))
    (hnt : txPlace s.phase = .waiting → txPlace t.phase = .away →
      s.op = some .txSubmit ∧ t.op = none ∧ t.statusCode = 0x02#8) : TxStep s t := by
  have hb : t.txBusy = s.txBusy := by rw [State.txBusy, hd]; rfl
  refine .moves hcur (by rw [hb]; exact hm) ho (fun h1 h2 => ?_) (fun _ => hp) (fun h1 => ?_) hnt
  · rw [hb, h1] at h2
    cases h2
  · rw [hp, hs.pointer (hb ▸ h1)]

/-- A step in which the TX ring's words settle. -/
theorem TxStep.of_settles (hs : s.TxSlots) (hcur : t.txCur = s.txCur) (hd : t.txd = s.txd) (hp : t.txHwptr = s.txHwptr)
    (hlt : s.txCur < s.cfg.txCap)
    (hw : ∀ j, j < s.cfg.txCap → Cell.Settles False (s.word .tx j 0) (t.word .tx j 0))
    (hg : txPlace t.phase = txPlace s.phase) : TxStep s t := by
  refine .of_move hs hcur hd hp ?_ (fun j hj _ P hr hv => (hw j hj).both hr hv) fun h1 h2 => ?_
  · rw [hg]
    exact .settles (hw _ hlt)
  · rw [hg, h1] at h2
    cases h2

/-- Commands other than TX_SUBMIT are not on the TX ring. -/
theorem CommandStep.txStep_of_other (hc : CommandStep i s t) (hu : Underway i s) (hfl : s.Flushed) (hs : s.TxSlots)
    (hm : s.macRst = false) (hi : i ≠ .txSubmit) : TxStep s t := by
  have hmac := (s.sound_iff.mp hu.sound).2.2.2.1
  have hcfg := hc.cfg_eq
  have hseq' := hc.keeps_seqOk hu.free hu.seqOk
  obtain ⟨-, -, -, hptr, -⟩ := hc.keeps_pointers hu.calm hm (s.maccrOk_iff.mp hmac).1 hu.plain.extra
  have haway : txPlace s.phase = .away := by
    rcases hu.placed with hl | hp
    · exact txPlace_of_other hl hi
    · rw [hp]
      rfl
  have haway' : txPlace t.phase = .away := by
    obtain ⟨o, v, -, hl⟩ := hc.done
    rcases hl.ended with ⟨-, -, hp⟩ | ⟨ho, -⟩
    · rw [hp]
      rfl
    · exact txPlace_of_other (running_of_seqOk hseq' ho).2.1 hi
  have hcur : t.txCur = s.txCur := (hc.keeps_cursors hu.calm).1 fun e => by
    rw [e] at haway
    cases haway
  refine .of_settles hs hcur hc.keeps_records.1 hptr hu.cursors.1 (fun j hj => ?_) (haway'.trans haway.symm)
  have hpos := hu.plain.launched.words_pos
  cases hu.effect hc with
  | rests hr => exact hfl.settles hu.plain hcfg hr hj hpos
  | writes hw hwr =>
    rcases hw.command hu.placed hu.noMark with ⟨e, -⟩ | ⟨-, rfl, rfl, rfl⟩
    · exact absurd e hi
    · have hout : s.rxOutSlot < s.cfg.rxCap := by
        have hph := hu.phaseOk
        cases hw with
        | release hp =>
          rw [hu.outSlot (by simpa only [State.phaseOk, hp] using hph)]
          exact hu.cursors.2.1
        | mark _ hp => exact absurd hp hu.noMark
      have hset := hwr.apart hu.plain.flat (hu.plain.launched.wordAddr_aligned .rx hout hpos)
        (hu.plain.launched.wordAddr_aligned .tx hj hpos) fun e => hu.plain.launched.ringsApart _
          (hu.plain.launched.lineOf_mem_ring .tx hj hpos) (e ▸ hu.plain.launched.lineOf_mem_ring .rx hout hpos)
      rw [State.word, State.word, hcfg]
      exact hset

/-- What a command reads from a slot after its Invalidate is what the CPU side sees there after the step. -/
theorem LastLine.read_view {o : LineOp} {todo : List Nat} {u : State} (ho : LastLine o todo s u) (h : s.cfg.Plain)
    (hst : s.storeOk = true) {r : Ring} {j : Nat} (hj : j < s.cfg.cap r) {a : Word} (ha : a = s.cfg.wordAddr r j 0)
    (hcfg : t.cfg = s.cfg) (ht : t.store = (u.memReadState a).store) : (t.word r j 0).view = u.memRead a := by
  have hcfg' := ho.cfg_eq
  rw [ha, ← hcfg', State.memRead_eq (s := u) (hcfg' ▸ h) (ho.storeOk hst) (hcfg' ▸ hj) (hcfg' ▸ h.launched.words_pos),
    State.word, State.word, hcfg, ht, hcfg']
  exact congrArg Cell.view (hcfg' ▸ Store.cell_afterRead ..)

/-- The phases that write a word of a started ring. -/
def writesWord : Phase → Bool
  | .txT2 _ => true
  | .txT4 _ => true
  | .rxL2 => true
  | _ => false

theorem Underway.rests (hu : Underway i s) (hc : CommandStep i s t) (hw : writesWord s.phase = false) :
    Store.Rests s.cfg (s.unflushed = []) s.store t.store := by
  cases hu.effect hc with
  | rests hr => exact hr
  | writes hw' hwr =>
    cases hw' with
    | address h | word0 h => rw [h] at hw; cases hw
    | release h => rw [h] at hw; cases hw
    | mark hi h => exact absurd h hu.noMark

theorem TxAtT1.place {todo : List Nat} (h : TxAtT1 s todo) (hp : Placed .txSubmit s) :
    txPlace s.phase = .away ∧ writesWord s.phase = false := by
  rcases h with h | ⟨hl, -⟩
  · rw [h]
    exact ⟨rfl, rfl⟩
  · rw [hp.first hl]
    exact ⟨rfl, rfl⟩

/-- TX_SUBMIT on the TX ring, where it writes no word and stays at its place. -/
theorem txStep_of_rest (hc : CommandStep .txSubmit s t) (hu : Underway .txSubmit s) (hfl : s.Flushed) (hs : s.TxSlots)
    (hptr : t.txHwptr = s.txHwptr) (hw : writesWord s.phase = false) (h8 : s.phase ≠ .txT8)
    (hg : txPlace t.phase = txPlace s.phase) : TxStep s t :=
  .of_settles hs ((hc.keeps_cursors hu.calm).1 h8) hc.keeps_records.1 hptr hu.cursors.1
    (fun _ hj => hfl.settles hu.plain hc.cfg_eq (hu.rests hc hw) hj hu.plain.launched.words_pos) hg

/-- TX_SUBMIT on the TX ring, where it writes no word and moves on by what it reads. -/
theorem txStep_of_move (hc : CommandStep .txSubmit s t) (hu : Underway .txSubmit s) (hfl : s.Flushed) (hs : s.TxSlots)
    (hptr : t.txHwptr = s.txHwptr) (hw : writesWord s.phase = false) (h8 : s.phase ≠ .txT8)
    (hm : Cell.Settles False (s.word .tx s.txCur 0) (t.word .tx s.txCur 0) →
      TxMove s.cfg (txPlace s.phase) s.txBusy (s.word .tx s.txCur 0) (txPlace t.phase) s.txBusy (t.word .tx s.txCur 0))
    (hnt : txPlace s.phase = .waiting → txPlace t.phase = .away →
      s.op = some .txSubmit ∧ t.op = none ∧ t.statusCode = 0x02#8) : TxStep s t := by
  have hset (j : Nat) (hj : j < s.cfg.txCap) :=
    hfl.settles hu.plain hc.cfg_eq (hu.rests hc hw) (r := .tx) hj hu.plain.launched.words_pos
  exact .of_move hs ((hc.keeps_cursors hu.calm).1 h8) hc.keeps_records.1 hptr (hm (hset _ hu.cursors.1))
    (fun j hj _ P hr hv => (hset j hj).both hr hv) hnt

/-- TX_SUBMIT on the TX ring, where it writes a word of the slot at the cursor. -/
theorem txStep_of_write (hc : CommandStep .txSubmit s t) (hu : Underway .txSubmit s) (hs : s.TxSlots) {k : Nat} {v : Word}
    (hk : k < s.cfg.descWords) (hptr : t.txHwptr = s.txHwptr) (h8 : s.phase ≠ .txT8)
    (hw : Store.Writes s.cfg (s.cfg.wordAddr .tx s.txCur k) v s.store t.store)
    (hm : TxMove s.cfg (txPlace s.phase) s.txBusy (s.word .tx s.txCur 0)
      (txPlace t.phase) s.txBusy (t.word .tx s.txCur 0)) (hg : txPlace s.phase ≠ .waiting) : TxStep s t := by
  refine .of_move hs ((hc.keeps_cursors hu.calm).1 h8) hc.keeps_records.1 hptr hm (fun j hj hne P hr hv => ?_)
    fun e => absurd e hg
  have hpos := hu.plain.launched.words_pos
  rw [State.word, hc.cfg_eq]
  refine hw.other_both hu.plain.flat (hu.plain.launched.wordAddr_aligned .tx hu.cursors.1 hk)
    (hu.plain.launched.wordAddr_aligned .tx hj hpos) (fun e => hne ?_) hr hv
  exact (hu.plain.launched.wordAddr_inj hj hu.cursors.1 hpos hk e).2.1

theorem txSubmit_txStep (hc : CommandStep .txSubmit s t) (hu : Underway .txSubmit s) (hfl : s.Flushed) (hs : s.TxSlots)
    (hptr : t.txHwptr = s.txHwptr) : TxStep s t := by
  have hcfg := hc.cfg_eq
  have hpos := hu.plain.launched.words_pos
  have hlt := hu.cursors.1
  have hst := hu.storeOk
  have heff := hu.effect hc
  have haddr := hu.plain.launched.wordAddr_aligned .tx hlt hpos
  have hword {q : Cell} (hq : Cell.Settles False q (t.store.cell s.cfg (s.cfg.wordAddr .tx s.txCur 0))) :
      Cell.Settles False q (t.word .tx s.txCur 0) := by
    rw [State.word, hcfg]
    exact hq
  have hop (hp : s.phase ≠ .first) : s.op = some .txSubmit :=
    hu.free.resolve_right fun e => hp (idle_of_seqOk hu.seqOk e).2.1
  have hc' := hc
  cases hc with
  | badState h hl | txBadArg h hl hb =>
    have hp := hu.placed.first h
    exact txStep_of_rest hc' hu hfl hs hptr (by rw [hp]; rfl) (by rw [hp]; exact nofun) (by rw [hp]; rfl)
  | txT1Line h ho =>
    obtain ⟨h1, h2⟩ := h.place hu.placed
    exact txStep_of_rest hc' hu hfl hs hptr h2 (fun e => by rw [e] at h1; cases h1) h1.symm
  | txNoDesc h ho hw =>
    obtain ⟨h1, h2⟩ := h.place hu.placed
    exact txStep_of_rest hc' hu hfl hs hptr h2 (fun e => by rw [e] at h1; cases h1) h1.symm
  | txSlotFree h ho hw =>
    obtain ⟨h1, h2⟩ := h.place hu.placed
    have hview := ho.read_view hu.plain hst (r := .tx) hlt s.txSlot_eq hcfg rfl
    refine txStep_of_move hc' hu hfl hs hptr h2 (fun e => by rw [e] at h1; cases h1) (fun hset => ?_) fun _ => nofun
    rw [h1]
    exact .takes hset (by rw [hview]; exact hw)
  | txAddress h =>
    have haddr' := hu.plain.launched.wordAddr_aligned .tx hlt hu.plain.launched.bufWord_lt
    have hwr := Store.Writes.of_write hu.ok (s.cfg.wordAddr .tx s.txCur s.cfg.bufWord) (s.cfg.toDma s.arg0)
    refine txStep_of_write hc' hu hs hu.plain.launched.bufWord_lt hptr (by rw [h]; exact nofun) hwr ?_ (by rw [h]; exact nofun)
    obtain ⟨p, hp, hset⟩ := hwr.other hu.plain.flat haddr' haddr fun e => hu.plain.launched.bufWord_ne_zero
      (hu.plain.launched.wordAddr_inj hlt hlt hpos hu.plain.launched.bufWord_lt e).2.2.symm
    rw [h]
    rcases hp with rfl | ⟨-, -, rfl⟩
    · exact .settles (hword hset)
    · exact .soils (hword hset)
  | txT3Line h ho | txT3Ends h ho =>
    exact txStep_of_rest hc' hu hfl hs hptr (by rw [h]; rfl) (by rw [h]; exact nofun) (by rw [h]; rfl)
  | @txWord0 _ w h =>
    have hph := hu.phaseOk
    simp only [State.phaseOk, h, Bool.and_eq_true] at hph
    have hown := Config.own_txWord0 w hu.fields (s.submitOk_iff.mp hph.1).1
    have hwr : Store.Writes s.cfg (s.cfg.wordAddr .tx s.txCur 0) (s.cfg.txWord0 w s.txLen) s.store
        (s.memWrite s.txSlot (s.cfg.txWord0 w s.txLen)).store := s.txSlot_eq ▸ Store.Writes.of_write hu.ok _ _
    refine txStep_of_write hc' hu hs hpos hptr (by rw [h]; exact nofun) hwr ?_ (by rw [h]; exact nofun)
    rw [h]
    exact .publishes hown (hword (hwr.same hu.plain.flat haddr))
  | txT5Line h ho =>
    exact txStep_of_rest hc' hu hfl hs hptr (by rw [h]; rfl) (by rw [h]; exact nofun) (by rw [h]; rfl)
  | txT5Ends h ho =>
    have hfl' := hc'.keeps_flushed hu hfl
    refine txStep_of_move hc' hu hfl hs hptr (by rw [h]; rfl) (by rw [h]; exact nofun) (fun hset => ?_) (fun _ => nofun)
    rw [h]
    refine .flushed hset ?_
    cases hd : (State.word _ .tx s.txCur 0).dirty with
    | false => rfl
    | true =>
      have hm := hfl' _ ((Store.copyAt_dirty ..).symm.trans hd)
        (hu.plain.launched.lineOf_mem_bothRings .tx hlt hpos |> fun e => by rw [hcfg]; exact e)
      cases hm
  | txDoorbell h =>
    exact txStep_of_rest hc' hu hfl hs hptr (by rw [h]; rfl) (by rw [h]; exact nofun) (by rw [h]; rfl)
  | txT7Line h ho =>
    exact txStep_of_rest hc' hu hfl hs hptr (by rw [h]; rfl) (by rw [h]; exact nofun) (by rw [h]; rfl)
  | txDone h ho hw =>
    have hview := ho.read_view hu.plain hst (r := .tx) hlt s.txSlot_eq hcfg rfl
    refine txStep_of_move hc' hu hfl hs hptr (by rw [h]; rfl) (by rw [h]; exact nofun) (fun hset => ?_) (fun _ => nofun)
    rw [h]
    exact .done hset (by rw [hview]; exact hw)
  | txTimeout h ho hw he =>
    have hview := ho.read_view hu.plain hst (r := .tx) hlt s.txSlot_eq hcfg rfl
    refine txStep_of_move hc' hu hfl hs hptr (by rw [h]; rfl) (by rw [h]; exact nofun) (fun hset => ?_)
      fun _ _ => ⟨hop (by rw [h]; exact nofun), rfl, State.endCommand_statusCode _ _ _ _⟩
    rw [h]
    exact .timeout hset (by rw [hview]; exact hw)
  | txWaits h ho hw he =>
    exact txStep_of_rest hc' hu hfl hs hptr (by rw [h]; rfl) (by rw [h]; exact nofun) (by rw [h]; rfl)
  | txEnds h =>
    exact .ends (by rw [h]; rfl) rfl rfl (fun _ => rfl) rfl rfl

/-- A phase of any command on the TX ring. -/
theorem CommandStep.txStep (hc : CommandStep i s t) (hu : Underway i s) (hfl : s.Flushed) (hs : s.TxSlots)
    (hm : s.macRst = false) : TxStep s t := by
  by_cases hi : i = .txSubmit
  · subst hi
    have hmac := (s.sound_iff.mp hu.sound).2.2.2.1
    obtain ⟨-, -, -, hptr, -⟩ := hc.keeps_pointers hu.calm hm (s.maccrOk_iff.mp hmac).1 hu.plain.extra
    exact txSubmit_txStep hc hu hfl hs hptr
  · exact hc.txStep_of_other hu hfl hs hm hi

end

end Sys2Proof.Machine


/-! PROOFS. The steps beside a command's phases, as the rings see them: the caller's own accesses, the DMA agents, the wire,
the cache agent, the MAC agent and the timer (42_tx.md R200, 43_rx.md R230, 41_coherency.md R168 to R170). -/

namespace Sys2Proof.Machine

/-- The RX DMA agent is part-way through a frame. -/
def State.rxBusy (s : State) : Bool := s.rxd != .idle

/-- What only a command changes is as before. -/
structure SameCommand (s t : State) : Prop where
  cfg : t.cfg = s.cfg
  op : t.op = s.op
  phase : t.phase = s.phase
  txCur : t.txCur = s.txCur
  rxCur : t.rxCur = s.rxCur
  rxOut : t.rxOut = s.rxOut
  rxOutSlot : t.rxOutSlot = s.rxOutSlot

structure SameTxDma (s t : State) : Prop where
  busy : t.txBusy = s.txBusy
  pointer : t.txHwptr = s.txHwptr

structure SameRxDma (s t : State) : Prop where
  busy : t.rxBusy = s.rxBusy
  pointer : t.rxHwptr = s.rxHwptr

/-- Word 0 of every slot settles. -/
def State.SlotsSettle (s t : State) : Prop :=
  ∀ r i, i < s.cfg.cap r → Cell.Settles False (s.word r i 0) (t.word r i 0)

/-- Word 0 of every slot but one is as before. -/
def State.SlotsSameBut (q : Ring) (j : Nat) (s t : State) : Prop :=
  ∀ r i, i < s.cfg.cap r → r ≠ q ∨ i ≠ j → t.word r i 0 = s.word r i 0

/-- What a step that is no phase of a command does to the rings. -/
inductive BesideStep (s t : State) : Prop
  | quiet (htx : SameTxDma s t) (hrx : SameRxDma s t) (hw : s.SlotsSettle t)
  | txFetches {i} (hi : i < s.cfg.txCap) (hp : s.txHwptr = s.cfg.ringPtr .tx i) (h0 : s.txBusy = false)
      (how : s.cfg.own (s.word .tx i 0).ram = true) (h1 : t.txBusy = true) (hp' : t.txHwptr = s.txHwptr)
      (hrx : SameRxDma s t) (hw : s.SlotsSettle t) (hsame : t.word .tx i 0 = s.word .tx i 0)
  | txCompletes {i v} (hi : i < s.cfg.txCap) (hp : s.txHwptr = s.cfg.ringPtr .tx i) (h0 : s.txBusy = true)
      (h1 : t.txBusy = false) (hp' : t.txHwptr = s.cfg.ringPtr .tx (s.cfg.advance .tx i)) (hrx : SameRxDma s t)
      (hv : s.cfg.own v = false) (hw : Cell.Overwrites v (s.word .tx i 0) (t.word .tx i 0))
      (ho : State.SlotsSameBut .tx i s t)
  | rxFetches {i} (hi : i < s.cfg.rxCap) (hp : s.rxHwptr = s.cfg.ringPtr .rx i) (h0 : s.rxBusy = false)
      (how : s.cfg.own (s.word .rx i 0).ram = false) (h1 : t.rxBusy = true) (hp' : t.rxHwptr = s.rxHwptr)
      (htx : SameTxDma s t) (hw : s.SlotsSettle t) (hsame : t.word .rx i 0 = s.word .rx i 0)
  | rxCompletes {i v} (hi : i < s.cfg.rxCap) (hp : s.rxHwptr = s.cfg.ringPtr .rx i) (h0 : s.rxBusy = true)
      (h1 : t.rxBusy = false) (hp' : t.rxHwptr = s.cfg.ringPtr .rx (s.cfg.advance .rx i)) (htx : SameTxDma s t)
      (hv : s.cfg.own v = true) (hw : Cell.Overwrites v (s.word .rx i 0) (t.word .rx i 0))
      (ho : State.SlotsSameBut .rx i s t)

section
variable {s t : State}

theorem SameTxDma.of_eq (hd : t.txd = s.txd) (hp : t.txHwptr = s.txHwptr) : SameTxDma s t :=
  ⟨by rw [State.txBusy, hd]; rfl, hp⟩

theorem SameRxDma.of_eq (hd : t.rxd = s.rxd) (hp : t.rxHwptr = s.rxHwptr) : SameRxDma s t :=
  ⟨by rw [State.rxBusy, hd]; rfl, hp⟩

theorem State.slotsSettle_of_same (h : ∀ r i, i < s.cfg.cap r → t.word r i 0 = s.word r i 0) : s.SlotsSettle t :=
  fun r i hi => .of_eq (h r i hi)

theorem State.slotsSettle_of_eq (hcfg : t.cfg = s.cfg) (hst : t.store = s.store) : s.SlotsSettle t :=
  State.slotsSettle_of_same fun r i _ => by rw [State.word, State.word, hcfg, hst]

theorem State.slotsSettle_of_settled (h : s.cfg.Plain) (hcfg : t.cfg = s.cfg)
    (hs : Store.Settled s.cfg False s.store t.store) : s.SlotsSettle t := fun r i hi => by
  rw [State.word, State.word, hcfg]
  exact hs _ (h.launched.wordAddr_aligned r hi h.launched.words_pos)

/-- Memory under a word as it was. -/
theorem Cell.Overwrites.same {p q : Cell} (h : Cell.Overwrites p.ram p q) : q = p := by
  rcases h with rfl | ⟨hp, rfl⟩
  · rfl
  · exact hp.symm

theorem State.word_of_dmaRead_eq (h : s.cfg.Plain) (hcfg : t.cfg = s.cfg) (hc : t.cache = s.cache) {r : Ring} {i : Nat}
    (hi : i < s.cfg.cap r) (hr : t.dmaRead (s.cfg.wordAddr r i 0) = s.dmaRead (s.cfg.wordAddr r i 0)) :
    t.word r i 0 = s.word r i 0 := by
  have ho := word_of_mem h hi h.launched.words_pos hcfg hc
  rw [hr, State.dmaRead_eq h rfl hi h.launched.words_pos] at ho
  exact ho.same

theorem TxProgress.busy_of_word {w : Word} (h : s.txd.word = some w) : s.txBusy = true := by
  rw [State.txBusy_iff]
  intro e
  rw [e] at h
  cases h

theorem RxProgress.busy_of_word {w : Word} (h : s.rxd.word = some w) : s.rxBusy = true := by
  rw [State.rxBusy, bne_iff_ne]
  intro e
  rw [e] at h
  cases h

end

section
variable {s : State} (h : s.cfg.Plain) (hst : s.storeOk = true) (hm : s.Marked)
include h hst hm

theorem txDmaTurn_beside (pick : Nat) (x : Word) (reserved : List (Nat × Word)) :
    BesideStep s (txDmaTurn pick x reserved s) := by
  obtain ⟨i, hi, hp, hw⟩ := hm.txAt
  have hwf := State.mem_wf_of_storeOk hst
  have hcfg : (txDmaTurn pick x reserved s).cfg = s.cfg := by rw [txDmaTurn_frame]
  have hcache : (txDmaTurn pick x reserved s).cache = s.cache := by rw [txDmaTurn_frame]
  have hrx : SameRxDma s (txDmaTurn pick x reserved s) := .of_eq (by rw [txDmaTurn_frame]) (by rw [txDmaTurn_frame])
  have hword {r : Ring} {j : Nat} (hj : j < s.cfg.cap r) :=
    txDmaTurn_word h hj h.launched.words_pos pick x reserved hi hp hwf
  by_cases hsent : s.txEnabled = true ∧ ∃ w, s.txd = .sent w
  · obtain ⟨hen, w, hd⟩ := hsent
    obtain ⟨hidle, -, -, -, hread, hptr⟩ := txDmaTurn_sent_result pick x reserved s w hen hd hwf
    have hnew := word_of_mem h (r := .tx) hi h.launched.words_pos hcfg hcache
    rw [← Config.ringPtr_wordAddr h, ← hp, hread] at hnew
    refine .txCompletes hi hp (TxProgress.busy_of_word (w := w) (by rw [hd]; rfl)) (by simp [State.txBusy, hidle]) ?_ hrx
      (Config.own_txDoneWord (s.cfg.fieldsApart_of_layoutFits h.launched.fits) w x) hnew fun r j hj hne => ?_
    · rw [hptr, hm.txBase, hp, nextPointer_ringPtr _ .tx i _ hi (hw w (by rw [hd]; rfl))]
    · refine State.word_of_dmaRead_eq h hcfg hcache hj ((hword hj).resolve_right ?_)
      rintro ⟨w', -, -, rfl, rfl, -⟩
      exact hne.elim (· rfl) (· rfl)
  · have hsame {r : Ring} {j : Nat} (hj : j < s.cfg.cap r) :
        (txDmaTurn pick x reserved s).word r j 0 = s.word r j 0 :=
      State.word_of_dmaRead_eq h hcfg hcache hj ((hword hj).resolve_right fun ⟨w, hen, hd, _⟩ => hsent ⟨hen, w, hd⟩)
    have hsettle : s.SlotsSettle (txDmaTurn pick x reserved s) := State.slotsSettle_of_same fun r j hj => hsame hj
    cases txDmaTurn_record pick x reserved s with
    | rests hd hp' => exact .quiet (.of_eq hd hp') hrx hsettle
    | fetches h0 how hd hp' =>
      refine .txFetches hi hp (by simp [State.txBusy, h0]) ?_ (by simp [State.txBusy, hd]) hp' hrx hsettle (hsame hi)
      rwa [State.dmaRead_eq h (hp.trans (Config.ringPtr_wordAddr h .tx i)) hi h.launched.words_pos] at how
    | works h0 hd hp' =>
      exact .quiet ⟨(TxProgress.busy_of_word hd).trans (TxProgress.busy_of_word h0).symm, hp'⟩ hrx hsettle
    | completes h0 hen hd hp' => exact absurd ⟨hen, _, h0⟩ hsent

theorem rxDmaTurn_beside (pick : Nat) (hdma : s.dmaOk = true) : BesideStep s (rxDmaTurn pick s) := by
  obtain ⟨i, hi, hp, hw, ha⟩ := hm.rxAt
  have hwf := State.mem_wf_of_storeOk hst
  have hcfg : (rxDmaTurn pick s).cfg = s.cfg := by rw [rxDmaTurn_frame]
  have hcache : (rxDmaTurn pick s).cache = s.cache := by rw [rxDmaTurn_frame]
  have htx : SameTxDma s (rxDmaTurn pick s) := .of_eq (by rw [rxDmaTurn_frame]) (by rw [rxDmaTurn_frame])
  have hword {r : Ring} {j : Nat} (hj : j < s.cfg.cap r) :=
    rxDmaTurn_word h hj h.launched.words_pos pick hi hp ha hdma hwf
  by_cases hwritten : s.rxEnabled = true ∧ ∃ w f, s.rxd = .written w f
  · obtain ⟨hen, w, f, hd⟩ := hwritten
    obtain ⟨hidle, -, hread, hptr, -⟩ := rxDmaTurn_written_result pick s w f hen hd hwf
    have hnew := word_of_mem h (r := .rx) hi h.launched.words_pos hcfg hcache
    rw [← Config.ringPtr_wordAddr h, ← hp, hread] at hnew
    refine .rxCompletes hi hp (RxProgress.busy_of_word (w := w) (by rw [hd]; rfl)) (by simp [State.rxBusy, hidle]) ?_ htx
      (Config.own_rxDeliverWord (s.cfg.fieldsApart_of_layoutFits h.launched.fits) w _ _) hnew fun r j hj hne => ?_
    · rw [hptr, hm.rxBase, hp, nextPointer_ringPtr _ .rx i _ hi (hw w (by rw [hd]; rfl))]
    · refine State.word_of_dmaRead_eq h hcfg hcache hj ((hword hj).resolve_right ?_)
      rintro ⟨w', f', -, -, rfl, rfl, -⟩
      exact hne.elim (· rfl) (· rfl)
  · have hsame {r : Ring} {j : Nat} (hj : j < s.cfg.cap r) : (rxDmaTurn pick s).word r j 0 = s.word r j 0 :=
      State.word_of_dmaRead_eq h hcfg hcache hj
        ((hword hj).resolve_right fun ⟨w, f, hen, hd, _⟩ => hwritten ⟨hen, w, f, hd⟩)
    have hsettle : s.SlotsSettle (rxDmaTurn pick s) := State.slotsSettle_of_same fun r j hj => hsame hj
    cases rxDmaTurn_record pick s with
    | rests hd hp' => exact .quiet htx (.of_eq hd hp') hsettle
    | fetches h0 how hd hp' =>
      refine .rxFetches hi hp (by simp [State.rxBusy, h0]) ?_ (by simp [State.rxBusy, hd]) hp' htx hsettle (hsame hi)
      rwa [State.dmaRead_eq h (hp.trans (Config.ringPtr_wordAddr h .rx i)) hi h.launched.words_pos] at how
    | works h0 hd hp' _ =>
      exact .quiet htx ⟨(RxProgress.busy_of_word hd).trans (RxProgress.busy_of_word h0).symm, hp'⟩ hsettle
    | completes h0 hen hd hp' => exact absurd ⟨hen, _, _, h0⟩ hwritten

omit hst in
theorem wireTurn_beside (f : Frame) : BesideStep s (wireTurn f s) := by
  obtain ⟨i, hi, hp, -⟩ := hm.rxAt
  have hsettle : s.SlotsSettle (wireTurn f s) :=
    State.slotsSettle_of_eq (by rw [wireTurn_frame]) (by rw [wireTurn_frame]; rfl)
  have htx : SameTxDma s (wireTurn f s) := .of_eq (by rw [wireTurn_frame]) (by rw [wireTurn_frame])
  cases wireTurn_record f s with
  | rests hd hp' => exact .quiet htx (.of_eq hd hp') hsettle
  | fetches h0 how hd hp' =>
    refine .rxFetches hi hp (by simp [State.rxBusy, h0]) ?_ (by simp [State.rxBusy, hd]) hp' htx hsettle
      (by rw [wireTurn_frame]; rfl)
    rwa [State.dmaRead_eq h (hp.trans (Config.ringPtr_wordAddr h .rx i)) hi h.launched.words_pos] at how
  | works h0 hd hp' _ =>
    exact .quiet htx ⟨(RxProgress.busy_of_word hd).trans (RxProgress.busy_of_word h0).symm, hp'⟩ hsettle
  | completes h0 hen hd hp' =>
    refine .quiet htx ?_ hsettle
    exfalso
    revert hd
    simp [wireTurn, h0]

end

/-- Taking the turn off the agenda is nothing to the rings. -/
theorem BesideStep.of_taken {s t : State} (h : BesideStep s.takeTurn t) : BesideStep s t := by
  cases h with
  | quiet htx hrx hw => exact .quiet ⟨htx.1, htx.2⟩ ⟨hrx.1, hrx.2⟩ hw
  | txFetches hi hp h0 how h1 hp' hrx hw hsame => exact .txFetches hi hp h0 how h1 hp' ⟨hrx.1, hrx.2⟩ hw hsame
  | txCompletes hi hp h0 h1 hp' hrx hv hw ho => exact .txCompletes hi hp h0 h1 hp' ⟨hrx.1, hrx.2⟩ hv hw ho
  | rxFetches hi hp h0 how h1 hp' htx hw hsame => exact .rxFetches hi hp h0 how h1 hp' ⟨htx.1, htx.2⟩ hw hsame
  | rxCompletes hi hp h0 h1 hp' htx hv hw ho => exact .rxCompletes hi hp h0 h1 hp' ⟨htx.1, htx.2⟩ hv hw ho

/-- A step on a well-started ring is a phase of a command or one of these. -/
theorem step_beside {s t : State} (h : s.Started) (hk : s.ringsLeftAlone = true) (hm : s.Marked)
    (hstep : step s = .next t) :
    (∃ i d rs, s.op = some i ∧ CommandStep i (s.turned d rs) t) ∨
    (∃ i d rs w, s.op = none ∧ CommandStep i ((s.turned d rs).begun w) t) ∨
    (SameCommand s t ∧ BesideStep s t) := by
  obtain ⟨hseq, -, -, -, hdma, hst⟩ := s.sound_iff.mp h.sound
  have htaken : s.takeTurn.Marked := hm.of_words rfl (.inr rfl) hm.words
  have hfirst (ho : s.op = none) : Phase.first = s.phase := (idle_of_seqOk hseq ho).2.1.symm
  cases step_cases hstep with
  | runs ht ho hc => exact .inl ⟨_, _, _, ho, hc⟩
  | starts ht ho hb hc => exact .inr (.inl ⟨_, _, _, _, ho, hc⟩)
  | illegal ht ho hb =>
    exact .inr (.inr ⟨⟨rfl, ho.symm, hfirst ho, rfl, rfl, rfl, rfl⟩,
      .quiet ⟨rfl, rfl⟩ ⟨rfl, rfl⟩ (State.slotsSettle_of_eq rfl rfl)⟩)
  | pause ht ho | arg0 ht ho hb | arg1 ht ho hb =>
    exact .inr (.inr ⟨⟨rfl, rfl, rfl, rfl, rfl, rfl, rfl⟩,
      .quiet ⟨rfl, rfl⟩ ⟨rfl, rfl⟩ (State.slotsSettle_of_eq rfl rfl)⟩)
  | load ht ho =>
    exact .inr (.inr ⟨⟨rfl, rfl, rfl, rfl, rfl, rfl, rfl⟩, .quiet ⟨rfl, rfl⟩ ⟨rfl, rfl⟩
      (State.slotsSettle_of_settled h.plain rfl (Store.Settled.afterRead s.store _))⟩)
  | store ht ho hq =>
    refine .inr (.inr ⟨⟨rfl, rfl, rfl, rfl, rfl, rfl, rfl⟩, .quiet ⟨rfl, rfl⟩ ⟨rfl, rfl⟩
      (State.slotsSettle_of_same fun r i hi => ?_)⟩)
    refine (State.store_outside h.plain.flat).cell _ fun hl => ?_
    rw [List.mem_singleton] at hl
    refine State.store_avoids hk ht ho hq ?_
    rw [← hl]
    exact h.plain.launched.lineOf_mem_bothRings r hi h.plain.launched.words_pos
  | @txDma pick x reserved ht =>
    have hb := txDmaTurn_beside (s := s.takeTurn) h.plain hst htaken pick x reserved
    rw [txDmaTurn_frame] at hb ⊢
    exact .inr (.inr ⟨⟨rfl, rfl, rfl, rfl, rfl, rfl, rfl⟩, hb.of_taken⟩)
  | @wire f ht =>
    have hb := wireTurn_beside (s := s.takeTurn) h.plain htaken f
    rw [wireTurn_frame] at hb ⊢
    exact .inr (.inr ⟨⟨rfl, rfl, rfl, rfl, rfl, rfl, rfl⟩, hb.of_taken⟩)
  | @rxDma pick ht =>
    have hb := rxDmaTurn_beside (s := s.takeTurn) h.plain hst htaken pick hdma
    rw [rxDmaTurn_frame] at hb ⊢
    exact .inr (.inr ⟨⟨rfl, rfl, rfl, rfl, rfl, rfl, rfl⟩, hb.of_taken⟩)
  | @cacheWriteBack a keep ht =>
    have hs := cacheWriteBackTurn_settled (s := s.takeTurn) a keep h.plain.flat (s.store_ok hst)
    rw [cacheWriteBackTurn_frame] at hs ⊢
    exact .inr (.inr ⟨⟨rfl, rfl, rfl, rfl, rfl, rfl, rfl⟩, .quiet ⟨rfl, rfl⟩ ⟨rfl, rfl⟩
      (State.slotsSettle_of_settled h.plain rfl hs)⟩)
  | @cacheFill a ht =>
    have hs := cacheFillTurn_settled (s := s.takeTurn) a
    rw [cacheFillTurn_frame] at hs ⊢
    exact .inr (.inr ⟨⟨rfl, rfl, rfl, rfl, rfl, rfl, rfl⟩, .quiet ⟨rfl, rfl⟩ ⟨rfl, rfl⟩
      (State.slotsSettle_of_settled h.plain rfl hs)⟩)
  | @cacheDrop a ht =>
    have hs := cacheDropTurn_settled (s := s.takeTurn) a
    rw [cacheDropTurn_frame] at hs ⊢
    exact .inr (.inr ⟨⟨rfl, rfl, rfl, rfl, rfl, rfl, rfl⟩, .quiet ⟨rfl, rfl⟩ ⟨rfl, rfl⟩
      (State.slotsSettle_of_settled h.plain rfl hs)⟩)
  | mac ht =>
    rw [macTurn_of_no_reset _ _ _ s.takeTurn hm.noReset]
    exact .inr (.inr ⟨⟨rfl, rfl, rfl, rfl, rfl, rfl, rfl⟩,
      .quiet ⟨rfl, rfl⟩ ⟨rfl, rfl⟩ (State.slotsSettle_of_eq rfl rfl)⟩)
  | timer ht =>
    rw [timerTurn_frame]
    exact .inr (.inr ⟨⟨rfl, rfl, rfl, rfl, rfl, rfl, rfl⟩,
      .quiet ⟨rfl, rfl⟩ ⟨rfl, rfl⟩ (State.slotsSettle_of_eq rfl rfl)⟩)

/-! ## The TX ring in any step -/

section
variable {s t : State}

theorem State.Started.tx_clean (h : s.Started) (hfl : s.Flushed) {j : Nat} (hj : j < s.cfg.txCap)
    (hd : (s.word .tx j 0).dirty = true) : (txPlace s.phase).mayBeDirty = true := by
  cases ho : s.op with
  | some i => exact (h.runs ho s.draw s.requests).tx_clean hfl hj hd
  | none =>
    have hm := hfl _ ((Store.copyAt_dirty ..).symm.trans hd)
      (h.plain.launched.lineOf_mem_bothRings .tx hj h.plain.launched.words_pos)
    rw [unflushed_of_first (idle_of_seqOk (s.sound_iff.mp h.sound).1 ho).2.1] at hm
    cases hm

/-- Slots that hardware has are the cursor's (R26). -/
theorem State.TxSlots.at_cursor (hs : s.TxSlots) {i : Nat} (hi : i < s.cfg.txCap)
    (how : s.cfg.own (s.word .tx i 0).ram = true) : i = s.txCur := by
  by_contra hne
  simp [(hs.others i hi hne).1] at how

/-- A step that leaves TX_SUBMIT where it is. -/
theorem TxStep.of_beside (hs : s.TxSlots) (h : s.cfg.Plain) (hlt : s.txCur < s.cfg.txCap) (hsame : SameCommand s t)
    (hb : BesideStep s t) : TxStep s t := by
  have hg : txPlace t.phase = txPlace s.phase := by rw [hsame.phase]
  have hnt (e : txPlace s.phase = .waiting) (e' : txPlace t.phase = .away) :
      s.op = some .txSubmit ∧ t.op = none ∧ t.statusCode = 0x02#8 := by
    rw [hg, e] at e'
    cases e'
  have hquiet (htx : SameTxDma s t) (hw : ∀ i, i < s.cfg.txCap → Cell.Settles False (s.word .tx i 0) (t.word .tx i 0)) :
      TxStep s t := by
    refine .moves hsame.txCur ?_ (fun i hi _ P hr hv => (hw i hi).both hr hv) (fun e e' => ?_) (fun _ => htx.pointer)
      (fun e => ?_) hnt
    · rw [hg, htx.busy]
      exact .settles (hw _ hlt)
    · rw [htx.busy, e] at e'
      cases e'
    · rw [htx.pointer, hs.pointer (htx.busy ▸ e)]
  cases hb with
  | quiet htx hrx hw => exact hquiet htx (hw .tx)
  | @txFetches i hi hp h0 how h1 hp' hrx hw hword =>
    obtain rfl := hs.at_cursor hi how
    refine .moves hsame.txCur ?_ (fun i hi _ P hr hv => (hw .tx i hi).both hr hv) (fun e => ?_) (fun _ => hp')
      (fun _ => hp'.trans hp) hnt
    · rw [hg, h0, h1, hword]
      exact .fetches how
    · rw [h0] at e
      cases e
  | @txCompletes i v hi hp h0 h1 hp' hrx hv hw ho =>
    obtain rfl : i = s.txCur := Config.ringPtr_inj h (r := .tx) hi hlt (hp.symm.trans (hs.pointer h0))
    refine .moves hsame.txCur ?_ (fun j hj hne P hr hv => ?_) (fun _ _ => hp') (fun e => ?_) (fun e => ?_) hnt
    · rw [hg, h0, h1]
      exact .completes hv hw
    · rw [ho .tx j hj (.inr hne)]
      exact ⟨hr, hv⟩
    · rw [e h0] at h1
      cases h1
    · rw [e] at h1
      cases h1
  | rxFetches hi hp h0 how h1 hp' htx hw hword => exact hquiet htx (hw .tx)
  | rxCompletes hi hp h0 h1 hp' htx hv hw ho =>
    exact hquiet htx fun i hi => .of_eq (ho .tx i hi (.inl nofun))

/-- Every step of every agent on the TX ring. -/
theorem step_txStep (h : s.Started) (hk : s.ringsLeftAlone = true) (hm : s.Marked) (hfl : s.Flushed) (hs : s.TxSlots)
    (hstep : step s = .next t) : TxStep s t := by
  obtain ⟨hseq, -, hcur, -⟩ := s.sound_iff.mp h.sound
  rcases step_beside h hk hm hstep with ⟨i, d, rs, ho, hc⟩ | ⟨i, d, rs, w, ho, hc⟩ | ⟨hsame, hb⟩
  · have hs' : (s.turned d rs).TxSlots := ⟨hs.cell, hs.pointer, hs.others⟩
    cases hc.txStep (h.runs ho d rs) hfl hs' hm.noReset with
    | moves hcur hm' ho' hpm hps hpf hnt => exact .moves hcur hm' ho' hpm hps hpf hnt
    | ends h0 h1 hcur hw hb hp => exact .ends h0 h1 hcur hw hb hp
  · have hp : s.phase = .first := (idle_of_seqOk hseq ho).2.1
    have hplace : txPlace Phase.first = txPlace s.phase := by rw [hp]
    have hfl' : ((s.turned d rs).begun w).Flushed := hfl.of_cache_eq rfl (unflushed_of_first hp).symm rfl
    have hs' : ((s.turned d rs).begun w).TxSlots := ⟨hplace ▸ hs.cell, hs.pointer, hs.others⟩
    cases hc.txStep (h.starts ho d rs w) hfl' hs' hm.noReset with
    | moves hcur hm' ho' hpm hps hpf hnt => exact .moves hcur (hplace ▸ hm') ho' hpm hps hpf fun e => by rw [hp] at e; cases e
    | ends h0 => cases h0
  · exact .of_beside hs h.plain (s.cursorsOk_iff.mp hcur).1 hsame hb

end

end Sys2Proof.Machine


/-! PROOFS. R33 (e), R202: the TX DMA pointer and the cursor. -/

namespace Sys2Proof.Machine

/-- What is claimed of a well-started ring with its marks, in words of the rings' words. -/
structure State.Disciplined (s : State) : Prop where
  started : s.Started
  marked : s.Marked
  flushed : s.Flushed
  tx : s.TxSlots

section
variable {s t : State}

theorem State.Disciplined.plain (h : s.Disciplined) : s.cfg.Plain := h.started.plain

theorem State.Disciplined.sound (h : s.Disciplined) : s.sound = true := h.started.sound

theorem State.Disciplined.seqOk (h : s.Disciplined) : s.seqOk = true := (s.sound_iff.mp h.sound).1

theorem State.Disciplined.storeOk (h : s.Disciplined) : s.storeOk = true := (s.sound_iff.mp h.sound).2.2.2.2.2

theorem State.Disciplined.cursors (h : s.Disciplined) :
    s.txCur < s.cfg.txCap ∧ s.rxCur < s.cfg.rxCap ∧ (s.rxOut = true → s.rxOutSlot = s.rxCur) :=
  s.cursorsOk_iff.mp (s.sound_iff.mp h.sound).2.2.1

theorem State.Marked.txPointer (hm : s.Marked) : ∃ i, i < s.cfg.txCap ∧ s.txHwptr = s.cfg.ringPtr .tx i := by
  obtain ⟨i, hi, hp, -⟩ := hm.txAt
  exact ⟨i, hi, hp⟩

theorem State.Marked.rxPointer (hm : s.Marked) : ∃ i, i < s.cfg.rxCap ∧ s.rxHwptr = s.cfg.ringPtr .rx i := by
  obtain ⟨i, hi, hp, -⟩ := hm.rxAt
  exact ⟨i, hi, hp⟩

theorem State.disciplined_of (hw : s.wellStarted = true) (hm : s.ringsMarked = true) (hf : s.ringsFlushed = true)
    (ht : s.txSlotsOk = true) : s.Disciplined := by
  have hst := State.started_of_wellStarted hw
  obtain ⟨-, -, hcur, -, -, hstore⟩ := s.sound_iff.mp hst.sound
  have hmarked := (State.ringsMarked_iff hst.plain hstore hcur).mp hm
  exact ⟨hst, hmarked, (State.flushed_iff hstore).mp hf,
    (State.txSlotsOk_iff hst.plain hstore (s.cursorsOk_iff.mp hcur).1 hmarked.txPointer).mp ht⟩

theorem State.Disciplined.txStep (h : s.Disciplined) (hk : s.ringsLeftAlone = true) (hstep : step s = .next t) :
    TxStep s t := step_txStep h.started hk h.marked h.flushed h.tx hstep

theorem State.Disciplined.clean (h : s.Disciplined) (hd : (s.word .tx s.txCur 0).dirty = true) :
    (txPlace s.phase).mayBeDirty = true := h.started.tx_clean h.flushed h.cursors.1 hd

/-- TX_SUBMIT is past T1 on a slot only while it runs. -/
theorem State.running_of_done {i : Nat} (h : s.txSlotState i = .done) : s.op = some .txSubmit := by
  by_contra hne
  have hstage : s.stageOf i = .none := by rw [State.stageOf, if_neg fun e => hne e.1]
  unfold State.txSlotState at h
  rw [hstage] at h
  split at h <;> cases h

theorem State.txAgree_of_inStep (h : s.txInStep = true) : s.txAgree = true := by
  unfold State.txInStep at h
  simp only [State.txAgree, Bool.or_eq_true, beq_iff_eq]
  split at h
  · exact .inr (by simpa using (Bool.and_eq_true_iff.mp h).1)
  · exact .inr (by simpa using (Bool.and_eq_true_iff.mp h).1)
  · exact .inr (by simpa using h)
  · next hst => exact .inl (.inl (State.running_of_done hst))
  · cases h

end

/-- Settles O31: `TxStep.inStep`, and what R202's agreement says of the pointer. -/
theorem txPointerAgrees : Obligations.TxPointerAgrees := by
  refine ⟨fun s t hw hk hm hf ht hin hstep => ?_, fun s h => State.txAgree_of_inStep h, fun s h ho hst => ?_⟩
  · have h := State.disciplined_of hw hm hf ht
    have hseq' := (t.sound_iff.mp (stepKeepsSound s t h.sound hstep)).1
    exact (h.txStep hk hstep).inStep h.tx h.plain (stepKeepsConfiguration s t hstep) h.seqOk hseq' h.cursors.1 h.clean hin
  · simp only [State.txAgree, Bool.or_eq_true, beq_iff_eq, List.any_eq_true, List.mem_range] at h
    rcases h with (h | ⟨i, hi, h⟩) | h
    · exact absurd h ho
    · exact absurd h (hst i hi)
    · exact h

end Sys2Proof.Machine


/-! PROOFS. The RX slots (10_state.md R34, R33 (c) and (d), R214; 43_rx.md R211 to R213, R230): what each step of a
well-started ring makes of a slot, by where RX_POLL, RX_RELEASE and the RX DMA agent are on it. -/

namespace Sys2Proof.Machine

/-- Where software is on a slot: nowhere, past P1 of RX_POLL, holding the packet, in the Flush of L2, at L3. -/
inductive RxPlace where
  | idle | found | out | releasing | released

/-- `State.rxSlotsOk` on one slot; `busy` says that the RX DMA agent is part-way through it. -/
structure RxCell (c : Config) (g : RxPlace) (busy : Bool) (p : Cell) : Prop where
  fresh : p.dirty = false → c.own p.view = true → p.ram = p.view
  agent : busy = true → c.own p.ram = false
  found : g = .found → c.own p.ram = true ∧ c.rxBad p.ram = false
  out : g = .out → c.own p.ram = true
  releasing : g = .releasing → p.dirty = true → c.own p.view = false

/-- What a step makes of a slot. -/
inductive RxMove (c : Config) : RxPlace → Bool → Cell → RxPlace → Bool → Cell → Prop
  | settles {g b p q} (h : Cell.Settles False p q) : RxMove c g b p g b q
  | finds {b p q} (h : Cell.Settles False p q) (how : c.own q.view = true) (hbad : c.rxBad q.view = false) :
      RxMove c .idle b p .found b q
  | takes {b p} : RxMove c .found b p .out b p
  | releases {g b p q v} (hg : g = .releasing ∨ g = .released) (hv : c.own v = false)
      (h : Cell.Settles False (p.wrote c.coherent v) q) : RxMove c .out b p g b q
  | flushed {b p q} (h : Cell.Settles False p q) : RxMove c .releasing b p .released b q
  | ends {b p} : RxMove c .released b p .idle b p
  | fetches {g p} (hr : c.own p.ram = false) : RxMove c g false p g true p
  | completes {g p q v} (hv : c.own v = true) (h : Cell.Overwrites v p q) : RxMove c g true p g false q

/-- The state of a slot whose packet software has not taken, from its word 0 in memory (R34). -/
def rxWordState (c : Config) (w : Word) : RxSlot := if c.own w then (if c.rxBad w then .bad else .ready) else .armed

/-- A slot's state (R34). -/
def rxState (c : Config) (g : RxPlace) (p : Cell) : RxSlot :=
  match g with
  | .idle | .found => rxWordState c p.ram
  | .out | .releasing | .released => .held

/-- R34's transitions, with a delivery before L3 (log entry 31). -/
def rxTransitions : List (RxSlot × RxSlot) :=
  [(.armed, .ready), (.armed, .bad), (.ready, .held), (.held, .armed), (.held, .ready), (.held, .bad)]

section
variable {c : Config} {g g' : RxPlace} {b b' : Bool} {p q : Cell}

theorem RxCell.settles (h : RxCell c g b p) (hclean : p.dirty = true → g = .releasing) (hs : Cell.Settles False p q) :
    RxCell c g b q := by
  cases hd : p.dirty with
  | false =>
    rcases hs.of_clean hd with rfl | rfl
    · exact h
    · exact ⟨fun _ _ => rfl, h.agent, h.found, h.out, nofun⟩
  | true =>
    rcases hs.of_dirty hd with rfl | rfl
    · exact h
    · obtain rfl := hclean hd
      exact ⟨fun _ _ => rfl, fun _ => h.releasing rfl hd, nofun, nofun, nofun⟩

/-- A clean slot that the CPU side sees delivered is so in memory. -/
theorem RxCell.delivered (h : RxCell c g b p) (hd : p.dirty = false) (hs : Cell.Settles False p q)
    (hv : c.own q.view = true) : q.ram = q.view ∧ p.ram = q.ram := by
  rcases hs.of_clean hd with rfl | rfl
  · exact ⟨h.fresh hd hv, rfl⟩
  · exact ⟨rfl, rfl⟩

theorem RxCell.not_busy (h : RxCell c g b p) (hr : c.own p.ram = true) : b = false := by
  cases b with
  | false => rfl
  | true => exact absurd hr (by simp [h.agent rfl])

theorem RxMove.keeps (hm : RxMove c g b p g' b' q) (h : RxCell c g b p) (hclean : p.dirty = true → g = .releasing) :
    RxCell c g' b' q := by
  have hnd (hg : g ≠ .releasing) : p.dirty = false := by
    by_contra hd
    exact hg (hclean (by simpa using hd))
  cases hm with
  | settles hs => exact h.settles hclean hs
  | finds hs how hbad =>
    obtain ⟨hrv, hpr⟩ := h.delivered (hnd nofun) hs how
    rw [← hrv] at how hbad
    exact ⟨fun _ _ => hrv, fun hb => hpr ▸ h.agent hb, fun _ => ⟨how, hbad⟩, nofun, nofun⟩
  | takes => exact ⟨h.fresh, h.agent, nofun, fun _ => (h.found rfl).1, nofun⟩
  | @releases _ _ _ _ v hg hv hs =>
    have hb := h.not_busy (h.out rfl)
    have hw : RxCell c .releasing b (p.wrote c.coherent v) := by
      unfold Cell.wrote
      split
      · exact ⟨fun _ _ => rfl, fun e => by simp [hb] at e, nofun, nofun, nofun⟩
      · exact ⟨nofun, fun e => by simp [hb] at e, nofun, nofun, fun _ _ => hv⟩
    have hq := hw.settles (fun _ => rfl) hs
    rcases hg with rfl | rfl
    · exact hq
    · exact ⟨hq.fresh, hq.agent, nofun, nofun, nofun⟩
  | flushed hs =>
    have hq := h.settles hclean hs
    exact ⟨hq.fresh, hq.agent, nofun, nofun, nofun⟩
  | ends => exact ⟨h.fresh, h.agent, nofun, nofun, nofun⟩
  | fetches hr => exact ⟨h.fresh, fun _ => hr, h.found, h.out, h.releasing⟩
  | @completes _ _ _ v hv ho =>
    have hr := h.agent rfl
    refine ⟨fun hd hview => ?_, nofun, fun hg => ?_, fun hg => ?_, fun hg hd => ?_⟩
    · rcases ho with rfl | ⟨-, rfl⟩
      · have := h.fresh hd hview
        rw [this, hview] at hr
        cases hr
      · rfl
    · simp [(h.found hg).1] at hr
    · simp [h.out hg] at hr
    · rcases ho with rfl | ⟨-, rfl⟩
      · exact h.releasing hg hd
      · cases hd

theorem RxMove.transition (hm : RxMove c g b p g' b' q) (h : RxCell c g b p) (hclean : p.dirty = true → g = .releasing) :
    rxState c g' q = rxState c g p ∨ (rxState c g p, rxState c g' q) ∈ rxTransitions := by
  have hram (hs : Cell.Settles False p q) (hg : g ≠ .releasing) : q.ram = p.ram :=
    hs.ram_of_clean (by
      by_contra hd
      exact hg (hclean (by simpa using hd)))
  cases hm with
  | settles hs =>
    left
    cases g with
    | idle | found => exact congrArg (rxWordState c) (hram hs nofun)
    | out | releasing | released => rfl
  | finds hs how hbad => exact .inl (congrArg (rxWordState c) (hram hs nofun))
  | takes =>
    right
    simp [rxState, rxWordState, h.found rfl, rxTransitions]
  | releases hg => rcases hg with rfl | rfl <;> exact .inl rfl
  | flushed hs => exact .inl rfl
  | ends =>
    right
    change (RxSlot.held, rxWordState c p.ram) ∈ rxTransitions
    unfold rxWordState
    split
    · split <;> decide
    · decide
  | fetches hr => exact .inl rfl
  | @completes _ _ _ v hv ho =>
    have hr := h.agent rfl
    cases g with
    | idle | found =>
      right
      cases hbad : c.rxBad v <;> simp [rxState, rxWordState, ho.ram, hr, hv, hbad, rxTransitions]
    | out | releasing | released => exact .inl rfl

end

/-! ## The ring -/

/-- Where RX_RELEASE is on the slot of the outstanding packet. -/
def releasePlace : Phase → RxPlace
  | .rxL2Lines _ => .releasing
  | .rxL3 => .released
  | _ => .out

/-- Where software is on slot `i`: only the slot at the cursor is away from the agent's ring. -/
def State.rxPlace (s : State) (i : Nat) : RxPlace :=
  if i = s.rxCur then if s.rxOut then releasePlace s.phase else if rxFound s.phase then .found else .idle
  else .idle

/-- The RX DMA agent is part-way through slot `i`. -/
def State.rxAgentAt (s : State) (i : Nat) : Bool := s.rxBusy && s.rxHwptr == s.cfg.ringPtr .rx i

/-- `State.rxSlotsOk` in words of the slots' word 0. -/
def State.RxSlots (s : State) : Prop :=
  ∀ i, i < s.cfg.rxCap → RxCell s.cfg (s.rxPlace i) (s.rxAgentAt i) (s.word .rx i 0)

/-- What a step of any agent makes of the RX ring. -/
def RxStep (s t : State) : Prop :=
  ∀ i, i < s.cfg.rxCap →
    RxMove s.cfg (s.rxPlace i) (s.rxAgentAt i) (s.word .rx i 0) (t.rxPlace i) (t.rxAgentAt i) (t.word .rx i 0)

section
variable {s t : State}

theorem State.rxPlace_of_out (h : s.rxOut = true) : s.rxPlace s.rxCur = releasePlace s.phase := by
  simp [State.rxPlace, h]

theorem State.rxPlace_of_not_out (h : s.rxOut = false) :
    s.rxPlace s.rxCur = if rxFound s.phase then .found else .idle := by simp [State.rxPlace, h]

theorem State.rxPlace_of_ne {i : Nat} (h : i ≠ s.rxCur) : s.rxPlace i = .idle := if_neg h

/-- RX_POLL is past P1 only with no packet outstanding. -/
theorem State.not_out_of_found (hp : s.phaseOk = true) (h : rxFound s.phase = true) : s.rxOut = false := by
  unfold State.phaseOk at hp
  revert hp h
  generalize s.phase = p
  intro hp h
  cases p <;> first | exact absurd h Bool.false_ne_true | skip
  · simp only [Bool.and_eq_true, Bool.not_eq_true'] at hp
    exact hp.1.1
  · simpa using hp
  · simpa using hp

theorem releasePlace_cases (p : Phase) : rxReleased p = false ∧ releasePlace p = .out ∨
    (∃ todo, p = .rxL2Lines todo) ∧ rxReleased p = true ∧ releasePlace p = .releasing ∨
    p = .rxL3 ∧ rxReleased p = true ∧ releasePlace p = .released := by
  cases p with
  | rxL2Lines todo => exact .inr (.inl ⟨⟨todo, rfl⟩, rfl, rfl⟩)
  | rxL3 => exact .inr (.inr ⟨rfl, rfl, rfl⟩)
  | _ => exact .inl ⟨rfl, rfl⟩

theorem State.rxReleaseOk_iff (s : State) : s.rxReleaseOk = true ↔
    (releasePlace s.phase = .releasing → s.slotDirty .rx s.rxOutSlot = true →
      s.cfg.own (s.slotView0 .rx s.rxOutSlot) = false) := by
  unfold State.rxReleaseOk
  generalize s.cfg.own (s.slotView0 .rx s.rxOutSlot) = v
  generalize s.slotDirty .rx s.rxOutSlot = d
  generalize s.phase = p
  cases p with
  | rxL2Lines todo =>
    change (!d || !v) = true ↔ (RxPlace.releasing = .releasing → _)
    cases d <;> simp
  | _ => exact ⟨fun _ => nofun, fun _ => rfl⟩

theorem State.rxBusy_iff (s : State) : s.rxBusy = true ↔ s.rxd ≠ .idle := by simp [State.rxBusy]

theorem State.rxSlotsOk_iff (h : s.cfg.Plain) (hs : s.storeOk = true) (hph : s.phaseOk = true)
    (hcur : s.rxCur < s.cfg.rxCap) (hout : s.rxOut = true → s.rxOutSlot = s.rxCur)
    (hat : ∃ i, i < s.cfg.rxCap ∧ s.rxHwptr = s.cfg.ringPtr .rx i) : s.rxSlotsOk = true ↔ s.RxSlots := by
  obtain ⟨j, hj, hp⟩ := hat
  have hptr : s.dmaRead s.rxHwptr = (s.word .rx j 0).ram :=
    State.dmaRead_eq h (hp.trans (Config.ringPtr_wordAddr h .rx j)) hj h.launched.words_pos
  have hr {i : Nat} (hi : i < s.cfg.rxCap) := State.slotWord0_eq h (r := .rx) hi
  have hv {i : Nat} (hi : i < s.cfg.rxCap) := State.slotView0_eq h hs (r := .rx) hi
  have hfresh : s.rxFresh = true ↔ ∀ i, i < s.cfg.rxCap → (s.word .rx i 0).dirty = false →
      s.cfg.own (s.word .rx i 0).view = true → (s.word .rx i 0).ram = (s.word .rx i 0).view := by
    simp only [State.rxFresh, State.everySlot_iff]
    refine forall₂_congr fun i hi => ?_
    rw [hr hi, hv hi, State.slotDirty_eq]
    cases (s.word .rx i 0).dirty <;> cases s.cfg.own (s.word .rx i 0).view <;> simp
  have hagent : (s.rxd == .idle || !s.cfg.own (s.dmaRead s.rxHwptr)) = true ↔
      (s.rxBusy = true → s.cfg.own (s.word .rx j 0).ram = false) := by
    rw [hptr, State.rxBusy]
    by_cases hd : s.rxd = .idle <;> simp [hd]
  have hat {i : Nat} (hi : i < s.cfg.rxCap) : s.rxAgentAt i = true ↔ s.rxBusy = true ∧ i = j := by
    simp only [State.rxAgentAt, Bool.and_eq_true, beq_iff_eq, hp]
    exact and_congr_right fun _ => ⟨fun e => (Config.ringPtr_inj h (r := .rx) hj hi e).symm, fun e => by rw [e]⟩
  simp only [State.rxSlotsOk, State.rxOwned, Bool.and_eq_true, hfresh, hagent, State.rxReleaseOk_iff, hr hcur,
    State.slotDirty_eq]
  constructor
  · rintro ⟨⟨hf, ⟨ha, ho⟩, hfd⟩, hrel⟩ i hi
    refine ⟨hf i hi, fun hb => ?_, fun hg => ?_, fun hg => ?_, fun hg hd => ?_⟩
    · obtain ⟨hb, rfl⟩ := (hat hi).mp hb
      exact ha hb
    all_goals
      obtain rfl : i = s.rxCur := by
        by_contra hne
        rw [State.rxPlace_of_ne hne] at hg
        cases hg
    · have hno : s.rxOut = false := by
        by_contra hne
        rw [State.rxPlace_of_out (by simpa using hne)] at hg
        rcases releasePlace_cases s.phase with ⟨-, e⟩ | ⟨-, -, e⟩ | ⟨-, -, e⟩ <;> rw [e] at hg <;> cases hg
      rw [State.rxPlace_of_not_out hno] at hg
      split at hg
      · next hfound => simpa [hfound] using hfd
      · cases hg
    all_goals
      have hyes : s.rxOut = true := by
        by_contra hne
        rw [State.rxPlace_of_not_out (by simpa using hne)] at hg
        split at hg <;> cases hg
      rw [State.rxPlace_of_out hyes] at hg
    · rw [hyes, hout hyes, hr hcur] at ho
      rcases releasePlace_cases s.phase with ⟨e', e⟩ | ⟨-, -, e⟩ | ⟨-, -, e⟩
      · simpa [e'] using ho
      · rw [e] at hg; cases hg
      · rw [e] at hg; cases hg
    · have := hrel hg
      rw [hout hyes, hv hcur] at this
      exact this hd
  · intro hcell
    have hc := hcell _ hcur
    refine ⟨⟨fun i hi => (hcell i hi).fresh, ⟨fun hb => (hcell j hj).agent ((hat hj).mpr ⟨hb, rfl⟩), ?_⟩, ?_⟩,
      fun hg hd => ?_⟩
    · cases ho : s.rxOut with
      | false => rfl
      | true =>
        rw [hout ho, hr hcur]
        rcases releasePlace_cases s.phase with ⟨e', e⟩ | ⟨-, e', -⟩ | ⟨-, e', -⟩
        · simp [e', hc.out ((State.rxPlace_of_out ho).trans e)]
        · simp [e']
        · simp [e']
    · cases hfd : rxFound s.phase with
      | false => rfl
      | true =>
        have hplace := State.rxPlace_of_not_out (State.not_out_of_found hph hfd)
        rw [hfd, if_pos rfl] at hplace
        simp [hc.found hplace]
    · have hyes : s.rxOut = true := by
        rcases releasePlace_cases s.phase with ⟨-, e⟩ | ⟨⟨todo, e⟩, -, -⟩ | ⟨-, -, e⟩
        · rw [e] at hg; cases hg
        · simpa only [State.phaseOk, e] using hph
        · rw [e] at hg; cases hg
      rw [hout hyes] at hd ⊢
      rw [hv hcur]
      exact hc.releasing ((State.rxPlace_of_out hyes).trans hg) hd

theorem State.rxSlotState_eq (h : s.cfg.Plain) (hout : s.rxOut = true → s.rxOutSlot = s.rxCur) {i : Nat}
    (hi : i < s.cfg.rxCap) : s.rxSlotState i = rxState s.cfg (s.rxPlace i) (s.word .rx i 0) := by
  unfold State.rxSlotState State.rxPlace
  rw [State.slotWord0_eq h (r := .rx) hi]
  change (if _ then _ else rxWordState s.cfg _) = _
  by_cases ho : s.rxOut = true
  · rw [hout ho, if_pos ho]
    by_cases hc : i = s.rxCur
    · rw [if_pos ⟨ho, hc.symm⟩, if_pos hc]
      rcases releasePlace_cases s.phase with ⟨-, e⟩ | ⟨-, -, e⟩ | ⟨-, -, e⟩ <;> rw [e] <;> rfl
    · rw [if_neg fun e => hc e.2.symm, if_neg hc]
      rfl
  · rw [if_neg fun e => ho e.1, if_neg ho]
    split
    · split <;> rfl
    · rfl

end

end Sys2Proof.Machine


/-! PROOFS. Every step of every agent moves each RX slot as `RxMove` says, where no two RX descriptors share a cache line
(43_rx.md R211 to R213, R230; 70_reset_and_hazards.md R336). -/

namespace Sys2Proof.Machine

/-- R336: a line over one RX descriptor is over no other. -/
theorem Config.rx_slot_lines_apart {c : Config} (h : c.Launched) (ha : c.rxSlotsApart = true) (hc : c.coherent = false)
    {i j : Nat} (hi : i < c.rxCap) (hj : j < c.rxCap)
    (hl : c.lineOf (c.wordAddr .rx i 0).toNat ∈ c.lines (c.slot .rx j).toNat c.descSize) : i = j := by
  obtain ⟨hsize, hbuf⟩ := Config.descSize_eq h.wf
  simp only [Config.rxSlotsApart, hc, Bool.false_or, Bool.and_eq_true, decide_eq_true_eq] at ha
  have hbase : ∀ k, ((c.base .rx).toNat + k * c.descSize) % c.line = 0 := fun k =>
    Nat.mod_eq_zero_of_dvd (Nat.dvd_add (Nat.dvd_of_mod_eq_zero ha.2)
      (Dvd.dvd.mul_left (Nat.dvd_of_mod_eq_zero ha.1) k))
  have hline := c.line_pos
  rw [h.toNat_wordAddr .rx hi h.words_pos, h.toNat_slot .rx hj, Nat.mul_zero, Nat.add_zero,
    Config.lineOf_eq_of_within c (hbase i) le_rfl (by omega), c.mem_lines_iff _ _ _ (by omega)] at hl
  obtain ⟨-, h1, h2⟩ := hl
  have hle : (c.base .rx).toNat + j * c.descSize ≤ (c.base .rx).toNat + i * c.descSize := by
    have hi0 := hbase i
    have hj0 := hbase j
    by_contra hlt
    have hd := Nat.le_of_dvd (by omega) (Nat.dvd_sub (Nat.dvd_of_mod_eq_zero hj0) (Nat.dvd_of_mod_eq_zero hi0))
    omega
  have hpos : 0 < c.descSize := by omega
  have h3 : j ≤ i := Nat.le_of_mul_le_mul_right (by omega) hpos
  have h4 : i < j + 1 := Nat.lt_of_mul_lt_mul_right (a := c.descSize) (by rw [Nat.add_mul]; omega)
  omega

section
variable {s t : State} {i : Instr}

/-- R33 (d): the word 0 of an RX slot is dirty only in the Flush of L2. -/
theorem Underway.rx_clean (hu : Underway i s) (hfl : s.Flushed) (ha : s.cfg.rxSlotsApart = true) {j : Nat}
    (hj : j < s.cfg.rxCap) (hd : (s.word .rx j 0).dirty = true) : s.rxPlace j = .releasing := by
  have hpos := hu.plain.launched.words_pos
  have hdirty := (Store.copyAt_dirty ..).symm.trans hd
  have hm := hfl _ hdirty (hu.plain.launched.lineOf_mem_bothRings .rx hj hpos)
  have hnc : s.cfg.coherent = false := by
    by_contra hc
    rw [Store.not_dirty_of_coherent hu.ok (by simpa using hc)] at hdirty
    cases hdirty
  rcases hu.unflushed_cases hm with ⟨-, h⟩ | ⟨todo, hp, hout, h, -⟩
  · exact absurd (hu.plain.launched.lineOf_mem_ring .rx hj hpos) (hu.plain.launched.ringsApart _ h)
  · have hslot := hu.outSlot hout
    rw [State.releaseSlot, hslot] at h
    obtain rfl := Config.rx_slot_lines_apart hu.plain.launched ha hnc hj hu.cursors.2.1 h
    rw [State.rxPlace_of_out hout, hp]
    rfl

/-- A step that leaves the agent alone, moves software on the slot at the cursor, and settles the other slots. -/
theorem RxStep.of_cursor (hcfg : t.cfg = s.cfg) (hcur : t.rxCur = s.rxCur) (hd : SameRxDma s t)
    (hm : RxMove s.cfg (s.rxPlace s.rxCur) (s.rxAgentAt s.rxCur) (s.word .rx s.rxCur 0)
      (t.rxPlace s.rxCur) (s.rxAgentAt s.rxCur) (t.word .rx s.rxCur 0))
    (ho : ∀ j, j < s.cfg.rxCap → j ≠ s.rxCur → Cell.Settles False (s.word .rx j 0) (t.word .rx j 0)) : RxStep s t := by
  intro j hj
  have hagent : t.rxAgentAt j = s.rxAgentAt j := by
    rw [State.rxAgentAt, hd.busy, hd.pointer, hcfg]
    rfl
  rw [hagent]
  by_cases hne : j = s.rxCur
  · rw [hne]
    exact hm
  · rw [State.rxPlace_of_ne hne, State.rxPlace_of_ne (hcur ▸ hne)]
    exact .settles (ho j hj hne)

/-- A step in which the RX ring's words settle and software stays where it is. -/
theorem RxStep.of_settles (hcfg : t.cfg = s.cfg) (hd : SameRxDma s t) (hcur : t.rxCur = s.rxCur) (hout : t.rxOut = s.rxOut)
    (hf : rxFound t.phase = rxFound s.phase) (hr : releasePlace t.phase = releasePlace s.phase)
    (hw : ∀ j, j < s.cfg.rxCap → Cell.Settles False (s.word .rx j 0) (t.word .rx j 0)) : RxStep s t := by
  intro j hj
  have hagent : t.rxAgentAt j = s.rxAgentAt j := by
    rw [State.rxAgentAt, hd.busy, hd.pointer, hcfg]
    rfl
  have hplace : t.rxPlace j = s.rxPlace j := by
    unfold State.rxPlace
    rw [hcur, hout, hf, hr]
  rw [hagent, hplace]
  exact .settles (hw j hj)

/-! ## The commands -/

/-- Only RX_POLL and RX_RELEASE are at one of their phases. -/
theorem rxPhase_of_other {p : Phase} (hl : later i p = true) (h1 : i ≠ .rxPoll) (h2 : i ≠ .rxRelease) :
    rxFound p = false ∧ releasePlace p = .out := by
  cases p <;> first | exact ⟨rfl, rfl⟩ | skip
  all_goals cases i <;> first | exact absurd hl Bool.false_ne_true | exact absurd rfl h1 | exact absurd rfl h2

theorem CommandStep.phase_cases (hc : CommandStep i s t) (hu : Underway i s) : t.phase = .first ∨ later i t.phase = true := by
  obtain ⟨o, v, -, hl⟩ := hc.done
  rcases hl.ended with ⟨-, -, hp⟩ | ⟨ho, -⟩
  · exact .inl hp
  · exact .inr (running_of_seqOk (hc.keeps_seqOk hu.free hu.seqOk) ho).2.1

theorem CommandStep.sameRxDma (hc : CommandStep i s t) (hu : Underway i s) (hm : s.macRst = false) : SameRxDma s t := by
  have hmac := (s.sound_iff.mp hu.sound).2.2.2.1
  obtain ⟨-, -, -, -, hptr⟩ := hc.keeps_pointers hu.calm hm (s.maccrOk_iff.mp hmac).1 hu.plain.extra
  exact .of_eq hc.keeps_records.2 hptr

theorem CommandStep.rxStep_of_other (hc : CommandStep i s t) (hu : Underway i s) (hfl : s.Flushed)
    (hd : SameRxDma s t) (h1 : i ≠ .rxPoll) (h2 : i ≠ .rxRelease) : RxStep s t := by
  have hpos := hu.plain.launched.words_pos
  have hp : rxFound s.phase = false ∧ releasePlace s.phase = .out := by
    rcases hu.placed with hl | hp
    · exact rxPhase_of_other hl h1 h2
    · rw [hp]
      exact ⟨rfl, rfl⟩
  have hp' : rxFound t.phase = false ∧ releasePlace t.phase = .out := by
    rcases hc.phase_cases hu with hp | hl
    · rw [hp]
      exact ⟨rfl, rfl⟩
    · exact rxPhase_of_other hl h1 h2
  have hl3 : s.phase ≠ .rxL3 := fun e => by rw [e] at hp; cases hp.2
  have hp3 (n : Nat) (b : Word) : s.phase ≠ .rxP3 n b := fun e => by rw [e] at hp; cases hp.1
  obtain ⟨-, hcur, hout⟩ := hc.keeps_cursors hu.calm
  refine .of_settles hc.cfg_eq hd (hcur hl3) (hout hl3 hp3).1 (hp'.1.trans hp.1.symm) (hp'.2.trans hp.2.symm)
    fun j hj => ?_
  cases hu.effect hc with
  | rests hr => exact hfl.settles hu.plain hc.cfg_eq hr hj hpos
  | @writes r k m v hw hwr =>
    rcases hw.command hu.placed hu.noMark with ⟨-, rfl, rfl⟩ | ⟨e, -⟩
    · have hm : m < s.cfg.descWords := by
        cases hw with
        | address => exact hu.plain.launched.bufWord_lt
        | word0 => exact hpos
        | mark _ h => exact absurd h hu.noMark
      have hset := hwr.apart hu.plain.flat (hu.plain.launched.wordAddr_aligned .tx hu.cursors.1 hm)
        (hu.plain.launched.wordAddr_aligned .rx hj hpos) fun e => hu.plain.launched.ringsApart _
          (e ▸ hu.plain.launched.lineOf_mem_ring .tx hu.cursors.1 hm) (hu.plain.launched.lineOf_mem_ring .rx hj hpos)
      rw [State.word, State.word, hc.cfg_eq]
      exact hset
    · exact absurd e h2

theorem RxAtP1.place {todo : List Nat} (h : RxAtP1 s todo) (hu : Underway .rxPoll s) :
    rxFound s.phase = false ∧ releasePlace s.phase = .out ∧ writesWord s.phase = false ∧ s.rxOut = false := by
  have hph := hu.phaseOk
  rcases h with h | ⟨hl, -, ho, -⟩
  · rw [h]
    exact ⟨rfl, rfl, rfl, by simpa [State.phaseOk, h] using hph⟩
  · rw [hu.placed.first hl]
    exact ⟨rfl, rfl, rfl, ho⟩

theorem RxAtP2.place {v : State} {n : Nat} {b : Word} {todo : List Nat} (h : RxAtP2 s v n b todo) :
    rxFound s.phase = true ∧ releasePlace s.phase = .out ∧ writesWord s.phase = false ∧ s.phase ≠ .rxL3 ∧
      ∀ n b, s.phase ≠ .rxP3 n b := by
  rcases h with ⟨h, -⟩ | ⟨w, h, -⟩ <;> rw [h] <;> exact ⟨rfl, rfl, rfl, nofun, nofun⟩

theorem rxPoll_rxStep (hc : CommandStep .rxPoll s t) (hu : Underway .rxPoll s) (hfl : s.Flushed)
    (hd : SameRxDma s t) : RxStep s t := by
  have hcfg := hc.cfg_eq
  have hset (hw : writesWord s.phase = false) (j : Nat) (hj : j < s.cfg.rxCap) :
      Cell.Settles False (s.word .rx j 0) (t.word .rx j 0) :=
    hfl.settles hu.plain hcfg (hu.rests hc hw) hj hu.plain.launched.words_pos
  have hrest (hw : writesWord s.phase = false) (hl3 : s.phase ≠ .rxL3) (hp3 : ∀ n b, s.phase ≠ .rxP3 n b)
      (hf : rxFound t.phase = rxFound s.phase) (hr : releasePlace t.phase = releasePlace s.phase) : RxStep s t := by
    obtain ⟨-, hcur, hout⟩ := hc.keeps_cursors hu.calm
    exact .of_settles hcfg hd (hcur hl3) (hout hl3 hp3).1 hf hr (hset hw)
  have hcur := (hc.keeps_cursors hu.calm).2.1
  have hc' := hc
  cases hc with
  | badState h hl | rxPollOutstanding h hl ho =>
    have hp := hu.placed.first h
    exact hrest (by rw [hp]; rfl) (by rw [hp]; exact nofun) (by rw [hp]; exact nofun) (by rw [hp]; rfl) (by rw [hp]; rfl)
  | rxP1Line h ho | rxNoPacket h ho hw =>
    obtain ⟨h1, h2, h3, -⟩ := h.place hu
    exact hrest h3 (fun e => by rw [e] at h2; cases h2) (fun n b e => by rw [e] at h1; cases h1) h1.symm h2.symm
  | @rxPacket _ u todo h ho hw hb =>
    obtain ⟨h1, h2, h3, h4⟩ := h.place hu
    have hview : (State.word _ .rx s.rxCur 0).view = u.memRead s.rxSlot :=
      ho.read_view (t := (u.memReadState s.rxSlot).atPhase .rxPoll (.rxP2 (u.memRead s.rxSlot))) hu.plain hu.storeOk
        hu.cursors.2.1 s.rxSlot_eq hcfg rfl
    have hcur' := hcur fun e => by rw [e] at h2; cases h2
    refine .of_cursor hcfg hcur' hd ?_ fun j hj _ => hset h3 j hj
    have hplace : State.rxPlace ((u.memReadState s.rxSlot).atPhase .rxPoll (.rxP2 (u.memRead s.rxSlot))) s.rxCur =
        .found := by
      have hout := ((hc'.keeps_cursors hu.calm).2.2 (fun e => by rw [e] at h2; cases h2)
        (fun n b e => by rw [e] at h1; cases h1)).1
      rw [← hcur', State.rxPlace_of_not_out (hout.trans h4)]
      rfl
    rw [State.rxPlace_of_not_out h4, h1, hplace]
    exact .finds (hset h3 _ hu.cursors.2.1) (by rw [hview]; exact hw) (by rw [hview]; exact hb)
  | rxP2Line h ho | rxP2Ends h ho =>
    obtain ⟨h1, h2, h3, h4, h5⟩ := h.place
    exact hrest h3 h4 h5 h1.symm h2.symm
  | @rxPollEnds _ n b h =>
    have hno : s.rxOut = false := State.not_out_of_found hu.phaseOk (by rw [h]; rfl)
    refine .of_cursor hcfg rfl hd ?_ fun j hj _ => .of_eq rfl
    have hfound : s.rxPlace s.rxCur = .found := by
      rw [State.rxPlace_of_not_out hno, h]
      rfl
    have hout : State.rxPlace (State.endCommand { s with rxOut := true, rxOutSlot := s.rxCur } .ok n b) s.rxCur = .out :=
      State.rxPlace_of_out (s := State.endCommand { s with rxOut := true, rxOutSlot := s.rxCur } .ok n b) rfl
    rw [hfound, hout]
    exact .takes

/-- L2 gives the slot back to hardware on the CPU side. -/
theorem RxAtL2.writes {u v : State} {todo : List Nat} (h : RxAtL2 s v todo) (hp : s.phase = .rxL2)
    (hx : s.store.Ok s.cfg) (hu : Store.Rests s.cfg False v.store u.store) :
    Store.Writes s.cfg (s.cfg.wordAddr .rx s.rxOutSlot 0) (s.cfg.releaseWord (s.memRead s.releaseSlot)) s.store u.store := by
  rcases h with ⟨h, -⟩ | ⟨-, -, rfl⟩
  · rw [hp] at h
    cases h
  · have hw : Store.Writes s.cfg s.releaseSlot (s.cfg.releaseWord (s.memRead s.releaseSlot)) s.store
        s.releaseWrite.store := .of_update hx _ _ _
    exact s.releaseSlot_eq ▸ hw.rests hu

theorem rxRelease_rxStep_of_write (hc : CommandStep .rxRelease s t) (hu : Underway .rxRelease s)
    (ha : s.cfg.rxSlotsApart = true) (hd : SameRxDma s t) (hp : s.phase = .rxL2) {w : Word}
    (hw : Store.Writes s.cfg (s.cfg.wordAddr .rx s.rxOutSlot 0) (s.cfg.releaseWord w) s.store t.store)
    (hg : releasePlace t.phase = .releasing ∨ releasePlace t.phase = .released) : RxStep s t := by
  have hpos := hu.plain.launched.words_pos
  have hout : s.rxOut = true := by simpa [State.phaseOk, hp] using hu.phaseOk
  obtain ⟨-, hcur', hout'⟩ := hc.keeps_cursors hu.calm
  have hcur := hcur' (by rw [hp]; exact nofun)
  have hout' := (hout' (by rw [hp]; exact nofun) (by rw [hp]; exact nofun)).1.trans hout
  have hlt := hu.cursors.2.1
  rw [hu.outSlot hout] at hw
  have haddr := hu.plain.launched.wordAddr_aligned .rx hlt hpos
  have hword (j : Nat) : t.word .rx j 0 = t.store.cell s.cfg (s.cfg.wordAddr .rx j 0) := by
    rw [State.word, hc.cfg_eq]
  refine .of_cursor hc.cfg_eq hcur hd ?_ fun j hj hne => ?_
  · rw [State.rxPlace_of_out hout, hp, ← hcur, State.rxPlace_of_out hout', hcur, hword]
    exact .releases hg (Config.own_releaseWord hu.fields _) (hw.same hu.plain.flat haddr)
  · have haddr' := hu.plain.launched.wordAddr_aligned .rx hj hpos
    rw [hword]
    obtain ⟨p, rfl | ⟨hnc, hl, -⟩, hset⟩ := hw.other hu.plain.flat haddr haddr' fun e =>
      hne (hu.plain.launched.wordAddr_inj hj hlt hpos hpos e).2.1
    · exact hset
    · exact absurd (Config.rx_slot_lines_apart hu.plain.launched ha hnc hj hlt
        (hl ▸ hu.plain.launched.lineOf_mem_slot .rx hlt hpos)) hne

theorem rxRelease_rxStep (hc : CommandStep .rxRelease s t) (hu : Underway .rxRelease s) (hfl : s.Flushed)
    (ha : s.cfg.rxSlotsApart = true) (hd : SameRxDma s t) : RxStep s t := by
  have hcfg := hc.cfg_eq
  have hset (hw : writesWord s.phase = false) (j : Nat) (hj : j < s.cfg.rxCap) :
      Cell.Settles False (s.word .rx j 0) (t.word .rx j 0) :=
    hfl.settles hu.plain hcfg (hu.rests hc hw) hj hu.plain.launched.words_pos
  obtain ⟨-, hcur, hout⟩ := hc.keeps_cursors hu.calm
  have hc' := hc
  cases hc with
  | badState h hl | rxReleaseNone h hl ho | rxReleaseBegins h hl ho =>
    have hp := hu.placed.first h
    exact .of_settles hcfg hd (hcur (by rw [hp]; exact nofun)) (hout (by rw [hp]; exact nofun) (by rw [hp]; exact nofun)).1
      (by rw [hp]; rfl) (by rw [hp]; rfl) (hset (by rw [hp]; rfl))
  | rxL2Line h ho =>
    have hrest := ho.rests (drop := False) (h.cfg_eq ▸ hu.plain.flat) (h.ok hu.ok) LineOp.flush_ne
    rw [h.cfg_eq] at hrest
    rcases h with ⟨hp, -⟩ | hp
    · exact .of_settles hcfg hd (hcur (by rw [hp]; exact nofun))
        (hout (by rw [hp]; exact nofun) (by rw [hp]; exact nofun)).1 (by rw [hp]; rfl) (by rw [hp]; rfl)
        (hset (by rw [hp]; rfl))
    · exact rxRelease_rxStep_of_write hc' hu ha hd hp.1 (RxAtL2.writes (.inr hp) hp.1 hu.ok hrest) (.inl rfl)
  | rxL2Ends h ho =>
    have hrest := ho.rests (drop := False) (h.cfg_eq ▸ hu.plain.flat) (h.ok hu.ok) LineOp.flush_ne
    rw [h.cfg_eq] at hrest
    rcases h with ⟨hp, -⟩ | hp
    · have hout0 : s.rxOut = true := by simpa [State.phaseOk, hp] using hu.phaseOk
      have hcur := hcur (by rw [hp]; exact nofun)
      have hout := (hout (by rw [hp]; exact nofun) (by rw [hp]; exact nofun)).1.trans hout0
      have hw : writesWord s.phase = false := by rw [hp]; rfl
      refine .of_cursor hcfg hcur hd ?_ fun j hj _ => hset hw j hj
      have hplace := State.rxPlace_of_out hout
      rw [hcur] at hplace
      rw [State.rxPlace_of_out hout0, hp, hplace]
      exact .flushed (hset hw _ hu.cursors.2.1)
    · exact rxRelease_rxStep_of_write hc' hu ha hd hp.1 (RxAtL2.writes (.inr hp) hp.1 hu.ok hrest) (.inr rfl)
  | rxReleaseEnds h =>
    have hout : s.rxOut = true := by simpa [State.phaseOk, h] using hu.phaseOk
    intro j hj
    have hagent : State.rxAgentAt (State.endCommand
        { s with rxCur := s.cfg.advance .rx s.rxCur, rxOut := false } .ok 0 0#32) j = s.rxAgentAt j := rfl
    have hplace : State.rxPlace (State.endCommand
        { s with rxCur := s.cfg.advance .rx s.rxCur, rxOut := false } .ok 0 0#32) j = .idle := by
      unfold State.rxPlace
      split <;> rfl
    rw [hagent, hplace]
    by_cases hne : j = s.rxCur
    · rw [hne, State.rxPlace_of_out hout, h]
      exact .ends
    · rw [State.rxPlace_of_ne hne]
      exact .settles (.of_eq rfl)

/-- A phase of any command on the RX ring. -/
theorem CommandStep.rxStep (hc : CommandStep i s t) (hu : Underway i s) (hfl : s.Flushed)
    (ha : s.cfg.rxSlotsApart = true) (hm : s.macRst = false) : RxStep s t := by
  have hd := hc.sameRxDma hu hm
  by_cases h1 : i = .rxPoll
  · subst h1
    exact rxPoll_rxStep hc hu hfl hd
  · by_cases h2 : i = .rxRelease
    · subst h2
      exact rxRelease_rxStep hc hu hfl ha hd
    · exact hc.rxStep_of_other hu hfl hd h1 h2

/-! ## Every step -/

theorem RxStep.of_beside (h : s.cfg.Plain) (hsame : SameCommand s t) (hb : BesideStep s t) : RxStep s t := by
  have hquiet (hrx : SameRxDma s t) (hw : ∀ j, j < s.cfg.rxCap → Cell.Settles False (s.word .rx j 0) (t.word .rx j 0)) :
      RxStep s t :=
    .of_settles hsame.cfg hrx hsame.rxCur hsame.rxOut (by rw [hsame.phase]) (by rw [hsame.phase]) hw
  have hplace (j : Nat) : t.rxPlace j = s.rxPlace j := by
    unfold State.rxPlace
    rw [hsame.rxCur, hsame.rxOut, hsame.phase]
  cases hb with
  | quiet htx hrx hw => exact hquiet hrx (hw .rx)
  | txFetches hi hp h0 how h1 hp' hrx hw hword => exact hquiet hrx (hw .rx)
  | txCompletes hi hp h0 h1 hp' hrx hv hw ho => exact hquiet hrx fun j hj => .of_eq (ho .rx j hj (.inl nofun))
  | @rxFetches i hi hp h0 how h1 hp' htx hw hword =>
    intro j hj
    rw [hplace, State.rxAgentAt, h0, State.rxAgentAt, h1, hp', hp, hsame.cfg]
    by_cases hne : j = i
    · rw [hne, hword]
      simp only [Bool.false_and, Bool.true_and, beq_self_eq_true]
      exact .fetches how
    · have hptr : (s.cfg.ringPtr .rx i == s.cfg.ringPtr .rx j) = false := by
        rw [beq_eq_false_iff_ne]
        exact fun e => hne (Config.ringPtr_inj h (r := .rx) hi hj e).symm
      rw [hptr]
      exact .settles (hw .rx j hj)
  | @rxCompletes i v hi hp h0 h1 hp' htx hv hw ho =>
    intro j hj
    rw [hplace, State.rxAgentAt, h0, State.rxAgentAt, h1, hp]
    by_cases hne : j = i
    · rw [hne]
      simp only [Bool.false_and, Bool.true_and, beq_self_eq_true]
      exact .completes hv hw
    · have hptr : (s.cfg.ringPtr .rx i == s.cfg.ringPtr .rx j) = false := by
        rw [beq_eq_false_iff_ne]
        exact fun e => hne (Config.ringPtr_inj h (r := .rx) hi hj e).symm
      rw [hptr, ho .rx j hj (.inr hne)]
      exact .settles (.refl ..)

theorem State.Disciplined.rx_clean (h : s.Disciplined) (ha : s.cfg.rxSlotsApart = true) {j : Nat} (hj : j < s.cfg.rxCap)
    (hd : (s.word .rx j 0).dirty = true) : s.rxPlace j = .releasing := by
  cases ho : s.op with
  | some i => exact (h.started.runs ho s.draw s.requests).rx_clean h.flushed ha hj hd
  | none =>
    have hm := h.flushed _ ((Store.copyAt_dirty ..).symm.trans hd)
      (h.plain.launched.lineOf_mem_bothRings .rx hj h.plain.launched.words_pos)
    rw [unflushed_of_first (idle_of_seqOk h.seqOk ho).2.1] at hm
    cases hm

/-- Every step of every agent on the RX ring. -/
theorem State.Disciplined.rxStep (h : s.Disciplined) (hk : s.ringsLeftAlone = true) (ha : s.cfg.rxSlotsApart = true)
    (hstep : step s = .next t) : RxStep s t := by
  rcases step_beside h.started hk h.marked hstep with ⟨i, d, rs, ho, hc⟩ | ⟨i, d, rs, w, ho, hc⟩ | ⟨hsame, hb⟩
  · exact hc.rxStep (h.started.runs ho d rs) h.flushed ha h.marked.noReset
  · have hp : s.phase = .first := (idle_of_seqOk h.seqOk ho).2.1
    have hfl : ((s.turned d rs).begun w).Flushed := h.flushed.of_cache_eq rfl (unflushed_of_first hp).symm rfl
    have hr := hc.rxStep (h.started.starts ho d rs w) hfl ha h.marked.noReset
    intro j hj
    have hplace : ((s.turned d rs).begun w).rxPlace j = s.rxPlace j := by
      unfold State.rxPlace
      rw [hp]
      rfl
    exact hplace ▸ hr j hj
  · exact .of_beside h.plain hsame hb

end

/-! ## R33 (c) and (d), R32 and R34 -/

/-- Settles O29: `step_keeps_flushed`, `TxStep.keeps`, `RxMove.keeps` and `step_keeps_buffersClean`. -/
theorem stepKeepsSlots : Obligations.StepKeepsSlots := by
  refine ⟨fun s t hw hk hm hf ht hstep => ?_, fun s t hl hs hk hb hstep => step_keeps_buffersClean hl hs hk hb hstep⟩
  have h := State.disciplined_of hw hm hf ht
  have hcfg : t.cfg = s.cfg := stepKeepsConfiguration s t hstep
  obtain ⟨-, hph', hcur', -, -, hst'⟩ := t.sound_iff.mp (stepKeepsSound s t h.sound hstep)
  obtain ⟨htx', hrx', hout'⟩ := t.cursorsOk_iff.mp hcur'
  have hmark := step_keeps_marked h.plain h.sound h.started.stand hk h.marked hstep
  have hplain : t.cfg.Plain := hcfg ▸ h.plain
  refine ⟨(State.flushed_iff hst').mpr (step_keeps_flushed h.started hk h.flushed hstep),
    (State.txSlotsOk_iff hplain hst' htx' hmark.txPointer).mpr
      ((h.txStep hk hstep).keeps h.tx hcfg h.cursors.1 h.clean), fun ha hrx => ?_⟩
  obtain ⟨-, hrx0, hout0⟩ := h.cursors
  have hslots := (State.rxSlotsOk_iff h.plain h.storeOk (s.sound_iff.mp h.sound).2.1 hrx0 hout0
    h.marked.rxPointer).mp hrx
  refine (State.rxSlotsOk_iff hplain hst' hph' hrx' hout' hmark.rxPointer).mpr fun j hj => ?_
  rw [hcfg] at hj ⊢
  exact (h.rxStep hk ha hstep j hj).keeps (hslots j hj) (h.rx_clean ha hj)

/-- Settles O30: `TxStep.transition` and `RxMove.transition`. -/
theorem slotTransitions : Obligations.SlotTransitions := by
  intro s t hw hk hm hf ht hstep
  have h := State.disciplined_of hw hm hf ht
  have hcfg : t.cfg = s.cfg := stepKeepsConfiguration s t hstep
  obtain ⟨hseq', -, hcur', -⟩ := t.sound_iff.mp (stepKeepsSound s t h.sound hstep)
  refine ⟨fun i hi => (h.txStep hk hstep).transition h.tx h.plain hcfg h.seqOk hseq' h.clean hi, fun ha hrx i hi => ?_⟩
  obtain ⟨-, hrx0, hout0⟩ := h.cursors
  have hslots := (State.rxSlotsOk_iff h.plain h.storeOk (s.sound_iff.mp h.sound).2.1 hrx0 hout0
    h.marked.rxPointer).mp hrx
  rw [State.rxSlotState_eq h.plain hout0 hi,
    State.rxSlotState_eq (hcfg ▸ h.plain) (t.cursorsOk_iff.mp hcur').2.2 (hcfg ▸ hi), hcfg]
  exact (h.rxStep hk ha hstep i hi).transition (hslots i hi) (h.rx_clean ha hi)

end Sys2Proof.Machine


/-! PROOFS. DEV_START past its reset wait, with no other agent between its phases (45_device.md R259, R260;
70_reset_and_hazards.md R322): the rings that S6 and S7 build, the registers, and the ring invariants at the end. -/

namespace Sys2Proof

/-- RING_INIT leaves every slot to the agents' side as R141 says: TX slots and RX slots with OWN = 0, the flag in the last. -/
theorem Config.own_initWord {c : Config} (h : c.FieldsApart) (r : Ring) (i : Nat) : c.own (Machine.initWord c r i 0) = false := by
  rw [Machine.initWord, if_pos rfl]
  split
  · rw [Config.own, Config.eorM_getLsbD h, decide_eq_false h.own_ne_eor]
  · simp [Config.own]

theorem Config.eor_initWord {c : Config} (h : c.FieldsApart) (r : Ring) (i : Nat) :
    c.eor (Machine.initWord c r i 0) = (i + 1 == c.cap r) := by
  rw [Machine.initWord, if_pos rfl, c.eor_eq_getLsbD _ h.eor_lt]
  split
  · next he => simp [Config.eorM_getLsbD h, he]
  · next he => simp [he]

namespace Machine

theorem markedWord_initWord {c : Config} (h : c.Launched) (r : Ring) (i k : Nat) : MarkedWord c r i k (initWord c r i k) := by
  refine ⟨?_, ?_⟩
  · rintro rfl
    exact Config.eor_initWord (c.fieldsApart_of_layoutFits h.fits) r i
  · rintro rfl rfl
    rw [initWord, if_neg h.bufWord_ne_zero, if_pos ⟨rfl, rfl⟩]

/-! ## Both rings as RING_INIT leaves them -/

/-- What S6 and S7 leave of memory and cache. -/
structure Store.RingsBuilt (c : Config) (x y : Store) : Prop where
  cell : ∀ r i k, i < c.cap r → k < c.descWords → y.cell c (c.wordAddr r i k) = .clean (initWord c r i k)
  invalid : ∀ r, ∀ l ∈ c.linesOfRing r, y.cache.get l = none
  outside : ∀ a : Word, (∀ r, c.lineOf a.toNat ∉ c.linesOfRing r) → y.mem.read a.toNat = x.mem.read a.toNat
  ok : y.Ok c

theorem Store.RingBuilt.both {c : Config} (h : c.Launched) (hf : c.Flat) {x y z : Store} (hy : Store.RingBuilt c .tx x y)
    (hz : Store.RingBuilt c .rx y z) : Store.RingsBuilt c x z where
  cell r i k hi hk := by
    cases r with
    | tx =>
      rw [hz.outside.cell _ (h.ring_lines_disjoint (r := .tx) (q := .rx) nofun (h.lineOf_mem_ring .tx hi hk))]
      exact hy.cell i k hi hk
    | rx => exact hz.cell i k hi hk
  invalid r l hl := by
    cases r with
    | tx =>
      rw [hz.outside.get l (h.ring_lines_disjoint (r := .tx) (q := .rx) nofun hl)]
      exact hy.invalid l hl
    | rx => exact hz.invalid l hl
  outside a ha := (hz.outside.read hf a (ha .rx)).trans (hy.outside.read hf a (ha .tx))
  ok := hz.ok

/-- S6 and S7 with no other agent between. -/
theorem devStart_reaches_devS8 (s : State) (h : s.cfg.Launched) (hf : s.cfg.Flat) (hx : s.store.Ok s.cfg)
    (hp : s.phase = .devS6 .i2) :
    ∃ z, Store.RingsBuilt s.cfg s.store z ∧ Reaches .devStart s
      ({ s.withStore z with txCur := 0, rxCur := 0, rxOut := false }.atPhase .devStart .devS8) := by
  obtain ⟨y, hy, hrun⟩ := takesRing_devS6.reaches s h hf hx hp
  have h6 : exec .devStart ((s.withStore y).atPhase .devStart (.devS6 .i6)) =
      .next ({ s.withStore y with txCur := 0 }.atPhase .devStart (.devS7 .i2)) := exec_devStart_devS6 _ .i6 rfl
  obtain ⟨z, hz, hrun'⟩ := takesRing_devS7.reaches ({ s.withStore y with txCur := 0 }.atPhase .devStart (.devS7 .i2)) h hf
    hy.ok rfl
  have h7 := exec_devStart_devS7 (({ s.withStore y with txCur := 0 }.withStore z).atPhase .devStart (.devS7 .i6)) .i6 rfl
  exact ⟨z, hy.both h hf hz, hrun.trans ((Reaches.of_exec h6 rfl).trans (hrun'.trans (.of_exec h7 rfl)))⟩

/-! ## The registers -/

/-- The MAC registers that S8 to S12 leave (R322). -/
def startedMac (c : Config) (m : MacRegs) (ls : LinkState) : MacRegs :=
  { m with
    ier := 0#32
    nptxrBadr := c.toDma c.txBase
    rxrBadr := c.toDma c.rxBase
    aptc := 0x00000001#32
    rbsr := BitVec.ofNat 32 c.rxBufSize &&& 0x3FFF#32
    dblac := c.dblacStart m.dblac
    maccr := c.linkWord (m.maccr ||| 0xF#32 ||| c.startExtra) ls }

/-- A phase of DEV_START with these registers. -/
def State.starting (s : State) (m : MacRegs) (p : Phase) : State := { s with mac := m }.atPhase .devStart p

/-- Both DMA pointers at the first slots (R259 S9). -/
def State.pointed (s : State) : State :=
  { s with txHwptr := s.cfg.toDma s.cfg.txBase, rxHwptr := s.cfg.toDma s.cfg.rxBase }

/-- What S9 makes of the registers (R259). -/
def ringsMac (c : Config) (m : MacRegs) : MacRegs :=
  { m with
    nptxrBadr := c.toDma c.txBase
    rxrBadr := c.toDma c.rxBase
    aptc := 0x00000001#32
    rbsr := BitVec.ofNat 32 c.rxBufSize &&& 0x3FFF#32
    dblac := c.dblacStart m.dblac }

section
variable (u : State) (m : MacRegs)

theorem reaches_devS9 (hp : u.phase = .devS8) :
    Reaches .devStart u (u.starting { u.mac with ier := 0#32 } .devS9) := by
  obtain ⟨-, -, -, -, -, h8, -⟩ := devStartPhases
  exact .of_exec (h8 u hp) rfl

theorem reaches_devS10 : Reaches .devStart (u.starting m .devS9) (u.pointed.starting (ringsMac u.cfg m) .devS10) := by
  obtain ⟨-, -, -, -, -, -, h9, -⟩ := devStartPhases
  exact .of_exec (h9 (u.starting m .devS9) rfl) rfl

theorem reaches_devS11 (hr : u.macRst = false) (hm : m.maccr.getLsbD 31 = false)
    (hx : u.cfg.startExtra.getLsbD 31 = false) : Reaches .devStart (u.starting m .devS10)
      (u.starting { m with maccr := m.maccr ||| 0xF#32 ||| u.cfg.startExtra } .devS11) := by
  obtain ⟨-, -, -, -, -, -, -, h10, -⟩ := devStartPhases
  exact .of_exec ((h10 (u.starting m .devS10) rfl).2 hr hm hx) rfl

theorem reaches_devS13 (ls : LinkState) (hr : u.macRst = false) (hm : m.maccr.getLsbD 31 = false)
    (hphy : u.draw.phy = .link ls) (hls : ls.up = true ∨ u.cfg.ifmode ∈ u.cfg.noNeg) :
    Reaches .devStart (u.starting m .devS11) (u.starting { m with maccr := u.cfg.linkWord m.maccr ls } .devS13) := by
  obtain ⟨-, -, -, -, -, -, -, -, h11, h12, -⟩ := devStartPhases
  have r11 : Reaches .devStart (u.starting m .devS11) (u.starting m (.devS12 ls)) :=
    .of_exec ((h11 (u.starting m .devS11) rfl).2 ls hphy) rfl
  exact r11.trans (.of_exec (((h12 (u.starting m (.devS12 ls)) ls rfl).2 hls).2 hr hm) rfl)

theorem exec_devS13 : exec .devStart (u.starting m .devS13) =
    .next ({ u with mac := m, life := .running }.endCommand .ok 0 0#32) := by
  obtain ⟨-, -, -, -, -, -, -, -, -, -, h13⟩ := devStartPhases
  exact h13 (u.starting m .devS13) rfl

end

/-- S8 to S13 with no other agent between and a usable link. -/
theorem devStart_from_devS8 {u v : State} {ls : LinkState} (hu : Reaches .devStart v u) (hp : u.phase = .devS8)
    (hr : u.macRst = false) (hm : u.mac.maccr.getLsbD 31 = false) (hx : u.cfg.startExtra.getLsbD 31 = false)
    (hphy : u.draw.phy = .link ls) (hls : ls.up = true ∨ u.cfg.ifmode ∈ u.cfg.noNeg) :
    ∃ n, runAlone .devStart n v =
      .next ({ u.pointed with mac := startedMac u.cfg u.mac ls, life := .running }.endCommand .ok 0 0#32) := by
  have hm' : (u.mac.maccr ||| 0xF#32 ||| u.cfg.startExtra).getLsbD 31 = false := by
    rw [BitVec.getLsbD_or, BitVec.getLsbD_or, hm, hx]
    rfl
  have r11 := reaches_devS11 u.pointed (ringsMac u.cfg { u.mac with ier := 0#32 }) hr hm hx
  have r13 := r11.trans (reaches_devS13 u.pointed _ ls hr hm' hphy hls)
  exact (hu.trans ((reaches_devS9 u hp).trans ((reaches_devS10 u _).trans r13))).lands (exec_devS13 u.pointed _)

/-! ## The ring invariants on rings that were just built -/

/-- The state in which DEV_START leaves the rings, as R33 sees it. -/
structure State.FreshRings (s : State) : Prop where
  plain : s.cfg.Plain
  ok : s.store.Ok s.cfg
  cell : ∀ r i k, i < s.cfg.cap r → k < s.cfg.descWords → s.word r i k = .clean (initWord s.cfg r i k)
  invalid : ∀ r, ∀ l ∈ s.cfg.linesOfRing r, s.cache.get l = none
  op : s.op = none
  busy : s.busy = false
  life : s.life = .running
  phase : s.phase = .first
  txCur : s.txCur = 0
  rxCur : s.rxCur = 0
  rxOut : s.rxOut = false
  noReset : s.macRst = false
  txBase : s.mac.nptxrBadr = s.cfg.ringPtr .tx 0
  rxBase : s.mac.rxrBadr = s.cfg.ringPtr .rx 0
  txPtr : s.txHwptr = s.cfg.ringPtr .tx 0
  rxPtr : s.rxHwptr = s.cfg.ringPtr .rx 0
  txIdle : s.txd = .idle
  rxIdle : s.rxd = .idle

section
variable {s : State} (h : s.FreshRings)
include h

theorem State.FreshRings.storeOk : s.storeOk = true := s.storeOk_iff.mpr ⟨h.ok.wf, h.ok.empty⟩

theorem State.FreshRings.cap_pos (r : Ring) : 0 < s.cfg.cap r :=
  (capacityOk_bounds (s.cfg.ring_of_wellFormed r h.plain.launched.wf).1).1

theorem State.FreshRings.cursors : s.cursorsOk = true := by
  have h1 := h.cap_pos .tx
  have h2 := h.cap_pos .rx
  exact s.cursorsOk_iff.mpr ⟨h.txCur ▸ h1, h.rxCur ▸ h2, fun e => by rw [h.rxOut] at e; cases e⟩

theorem State.FreshRings.seqOk : s.seqOk = true := by
  simp [State.seqOk, h.op, h.busy, h.life, h.phase]

theorem State.FreshRings.own {r : Ring} {i : Nat} (hi : i < s.cfg.cap r) :
    s.cfg.own (s.word r i 0).ram = false ∧ s.cfg.own (s.word r i 0).view = false := by
  have hown := Config.own_initWord (s.cfg.fieldsApart_of_layoutFits h.plain.launched.fits) r i
  rw [h.cell r i 0 hi h.plain.launched.words_pos]
  exact ⟨hown, hown⟩

theorem State.FreshRings.marked : s.Marked where
  noReset := h.noReset
  txBase := h.txBase
  rxBase := h.rxBase
  txAt := ⟨0, h.cap_pos .tx, h.txPtr, fun w hw => by rw [h.txIdle] at hw; cases hw⟩
  rxAt := ⟨0, h.cap_pos .rx, h.rxPtr, fun w hw => (by rw [h.rxIdle] at hw; cases hw),
    fun w f d todo e => by rw [h.rxIdle] at e; cases e⟩
  words := fun r i k hi hk => by
    have hcell := h.cell r i k hi hk
    rw [State.word] at hcell
    rw [hcell]
    exact ⟨markedWord_initWord h.plain.launched r i k, markedWord_initWord h.plain.launched r i k⟩
  carried := fun w hw => by rw [h.phase] at hw; cases hw

theorem State.FreshRings.flushed : s.Flushed := by
  intro l hd hl
  obtain ⟨r, hr⟩ := (s.cfg.mem_bothRings l).mp hl
  rw [Store.dirtyAt, State.store_cache, h.invalid r l hr] at hd
  cases hd

theorem State.FreshRings.txBusy : s.txBusy = false := by simp [State.txBusy, h.txIdle]

theorem State.FreshRings.txSlots : s.TxSlots := by
  obtain ⟨hr, hv⟩ := h.own (r := .tx) (h.txCur ▸ h.cap_pos .tx : s.txCur < s.cfg.cap .tx)
  refine ⟨?_, fun hb => by simp [h.txBusy] at hb, fun i hi _ => h.own hi⟩
  rw [h.phase, h.txBusy]
  exact ⟨fun _ e => by simp [hr] at e, nofun, nofun, nofun, nofun⟩

theorem State.FreshRings.rxSlots : s.RxSlots := by
  intro i hi
  have hplace : s.rxPlace i = .idle := by
    unfold State.rxPlace
    rw [h.rxOut, h.phase]
    exact ite_self _
  have hagent : s.rxAgentAt i = false := by simp [State.rxAgentAt, State.rxBusy, h.rxIdle]
  rw [hplace, hagent]
  exact ⟨fun _ e => by simp [(h.own (r := .rx) hi).2] at e, nofun, nofun, nofun, nofun⟩

theorem State.FreshRings.txInStep : s.txInStep = true := by
  have hlt : s.txCur < s.cfg.txCap := h.txCur ▸ h.cap_pos .tx
  have hfree : s.txSlotState s.txCur = .free := by
    rw [State.txSlotState_eq h.plain h.seqOk hlt, if_pos rfl, h.phase, txState, (h.own (r := .tx) hlt).1]
    rfl
  rw [State.txInStep_iff, hfree, h.txCur]
  exact ⟨h.txPtr, h.txBusy⟩

/-- Every invariant of R33. -/
theorem State.FreshRings.invariants :
    s.started = true ∧ s.ringsMarked = true ∧ s.ringsFlushed = true ∧ s.txSlotsOk = true ∧ s.rxSlotsOk = true ∧
      s.txInStep = true ∧ s.txAgree = true ∧ s.rxAgree = true := by
  obtain ⟨htx, hrx, hout⟩ := s.cursorsOk_iff.mp h.cursors
  have hph : s.phaseOk = true := by simp [State.phaseOk, h.phase]
  exact ⟨by simp [State.started, h.life], (State.ringsMarked_iff h.plain h.storeOk h.cursors).mpr h.marked,
    (State.flushed_iff h.storeOk).mpr h.flushed,
    (State.txSlotsOk_iff h.plain h.storeOk htx h.marked.txPointer).mpr h.txSlots,
    (State.rxSlotsOk_iff h.plain h.storeOk hph hrx hout h.marked.rxPointer).mpr h.rxSlots, h.txInStep,
    State.txAgree_of_inStep h.txInStep, (State.rxAgree_iff hrx).mpr h.marked.rxPointer⟩

end

/-- The state that R322 tables, over a memory and cache with both rings built. -/
def State.deviceStarted (s : State) (z : Store) (ls : LinkState) : State :=
  { s with
    mem := z.mem
    cache := z.cache
    txCur := 0
    rxCur := 0
    rxOut := false
    mac := startedMac s.cfg { s.mac with macMadr := macHigh s.macAddr, macLadr := macLow s.macAddr } ls
    txHwptr := s.cfg.toDma s.cfg.txBase
    rxHwptr := s.cfg.toDma s.cfg.rxBase
    life := .running
    busy := false
    op := none
    phase := .first
    res0 := 0#32
    res1 := 0#32 }

theorem devStart_reaches_running {s : State} {ls : LinkState} (h : s.cfg.Launched) (hf : s.cfg.Flat)
    (hst : s.storeOk = true) (hp : s.phase = .devS5) (hr : s.macRst = false) (hm : s.mac.maccr.getLsbD 31 = false)
    (hx : s.cfg.startExtra.getLsbD 31 = false) (hphy : s.draw.phy = .link ls)
    (hls : ls.up = true ∨ s.cfg.ifmode ∈ s.cfg.noNeg) :
    ∃ z n, Store.RingsBuilt s.cfg s.store z ∧ runAlone .devStart n s = .next (s.deviceStarted z ls) := by
  obtain ⟨-, -, h5, -⟩ := devStartPhases
  have r5 : Reaches .devStart s (s.starting { s.mac with macMadr := macHigh s.macAddr, macLadr := macLow s.macAddr }
      (.devS6 .i2)) := .of_exec (h5 s hp) rfl
  obtain ⟨z, hz, r8⟩ := devStart_reaches_devS8 (s.starting _ _) h hf (State.store_ok hst) rfl
  obtain ⟨n, hn⟩ := devStart_from_devS8 (r5.trans r8) rfl hr hm hx hphy hls
  exact ⟨z, n, hz, hn⟩

theorem State.deviceStarted_fresh {s : State} {z : Store} {ls : LinkState} (h : s.cfg.Plain)
    (hz : Store.RingsBuilt s.cfg s.store z) (hr : s.macRst = false) (htxd : s.txd = .idle) (hrxd : s.rxd = .idle) :
    (s.deviceStarted z ls).FreshRings := by
  have hptr (r : Ring) : s.cfg.toDma (s.cfg.base r) = s.cfg.ringPtr r 0 := by simp [Config.ringPtr]
  exact ⟨h, hz.ok, hz.cell, hz.invalid, rfl, rfl, rfl, rfl, rfl, rfl, rfl, hr, hptr .tx, hptr .rx, hptr .tx, hptr .rx,
    htxd, hrxd⟩

/-- Settles O53: S5, both rings, and S8 to S13 with no other agent between. -/
theorem devStartReachesRunning : Obligations.DevStartReachesRunning := by
  intro s ls hl hid hst hp hr hmac hx hphy hls
  have h := Config.launched_of_launchOk hl
  have hf := h.flat hid
  have hdma (a : Word) : s.cfg.toDma a = a := Config.toDma_id _ _ hid
  have hm : s.mac.maccr.getLsbD 31 = false := by
    have hbit := congrArg (BitVec.getLsbD · 31) hmac
    simpa using hbit
  obtain ⟨z, n, hz, hn⟩ := devStart_reaches_running h hf hst hp hr hm hx hphy hls
  refine ⟨n, _, hn, rfl, rfl, rfl, rfl, rfl, rfl, rfl, rfl, hr, fun r i k hi hk => ?_, hz.invalid, hz.outside,
    hdma _, hdma _, rfl, rfl, rfl, ?_, fun htxd hrxd => (State.deviceStarted_fresh ⟨h, hf, hx⟩ hz hr htxd hrxd).invariants⟩
  · exact (words_of_clean hf hz.ok (h.wordAddr_aligned r hi hk) (hz.cell r i k hi hk)).1
  · simp only [State.deviceStarted, startedMac, hdma]

end Machine
end Sys2Proof


/-! PROOFS. R302: every command ends. The measure: the phases that are still to come, then whether a bounded wait still has
its timer to wait for, then the lines left in the phase's Flush or Invalidate. -/

namespace Sys2Proof.Machine

/-! ## The measure -/

/-- The phases of RING_INIT still to come. -/
def ringLeft : RingPhase → Nat
  | .i2 => 4
  | .i3 => 3
  | .i4 => 2
  | .i5 _ => 1
  | .i6 => 0

def ringLinesIn : RingPhase → Nat
  | .i5 todo => todo.length
  | _ => 0

/-- The phases of a running command still to come. -/
def phasesLeft : Phase → Nat
  | .ringInit p => ringLeft p
  | .txT1 _ => 7
  | .txT2 _ => 6
  | .txT3 _ _ => 5
  | .txT4 _ => 4
  | .txT5 _ => 3
  | .txT6 => 2
  | .txT7 _ => 1
  | .rxP1 _ => 3
  | .rxP2 _ => 2
  | .rxP2Lines _ _ _ => 1
  | .rxL2 => 2
  | .rxL2Lines _ => 1
  | .devS2 => 20
  | .devS3 => 19
  | .devS4 => 18
  | .devS5 => 17
  | .devS6 p => 12 + ringLeft p
  | .devS7 p => 7 + ringLeft p
  | .devS8 => 6
  | .devS9 => 5
  | .devS10 => 4
  | .devS11 => 3
  | .devS12 _ => 2
  | .devS13 => 1
  | .stopX2 => 1
  | _ => 0

/-- The lines left in the phase's Flush or Invalidate. -/
def linesIn : Phase → Nat
  | .ringInit p => ringLinesIn p
  | .flushF2 todo => todo.length
  | .invalidateV2 todo => todo.length
  | .txT1 todo => todo.length
  | .txT3 _ todo => todo.length
  | .txT5 todo => todo.length
  | .txT7 todo => todo.length
  | .rxP1 todo => todo.length
  | .rxP2Lines _ _ todo => todo.length
  | .rxL2Lines todo => todo.length
  | .devS6 p => ringLinesIn p
  | .devS7 p => ringLinesIn p
  | _ => 0

/-- The phases that wait (R299 to R301). -/
def waits : Phase → Bool
  | .txT7 _ => true
  | .devS4 => true
  | _ => false

/-- What a phase of a running command gets done. -/
inductive Advances (s t : State) : Prop
  | ends (h : t.op = none)
  | next (h : phasesLeft t.phase < phasesLeft s.phase)
  | line (h : phasesLeft t.phase = phasesLeft s.phase) (hw : waits t.phase = waits s.phase) (he : t.expired = s.expired)
      (hl : linesIn t.phase < linesIn s.phase)
  | goesRound (h : phasesLeft t.phase = phasesLeft s.phase) (hw : waits s.phase = true) (hw' : waits t.phase = true)
      (he : s.expired = false) (he' : t.expired = false)

section
variable {i : Instr} {s t u : State}

theorem Advances.of_next {p q : Phase} (h : s.phase = p) (h' : t.phase = q) (hlt : phasesLeft q < phasesLeft p) :
    Advances s t := .next (by rw [h, h']; exact hlt)

theorem Advances.of_line {p q : Phase} (h : s.phase = p) (h' : t.phase = q) (he : t.expired = s.expired)
    (hn : phasesLeft q = phasesLeft p) (hw : waits q = waits p) (hl : linesIn q < linesIn p) : Advances s t := by
  subst h h'
  exact .line hn hw he hl

theorem OneLine.shorter {o : LineOp} {todo rest : List Nat} (h : OneLine o todo rest s u) : rest.length < todo.length := by
  obtain ⟨-, l, hl, -⟩ := h
  have hlen := hl.length_eq
  rw [List.length_cons] at hlen
  omega

theorem OneLine.expired_eq {o : LineOp} {todo rest : List Nat} (h : OneLine o todo rest s u) : u.expired = s.expired := by
  obtain ⟨m, x, rfl⟩ := h.frame
  rfl

/-- RING_INIT's phases go on to the next, or to the next line of I5. -/
theorem ringInitStep_advances {r : Ring} {p q : RingPhase} (h : ringInitStep r p s = (u, some q)) :
    ringLeft q < ringLeft p ∨ (ringLeft q = ringLeft p ∧ ringLinesIn q < ringLinesIn p ∧ u.expired = s.expired) := by
  cases p with
  | i2 => cases h; exact .inl (Nat.lt_succ_self _)
  | i3 => cases r <;> cases h <;> exact .inl (Nat.lt_succ_self _)
  | i4 => cases h; exact .inl (Nat.lt_succ_self _)
  | i5 todo =>
    simp only [ringInitStep] at h
    split at h
    · cases h
      exact .inl (Nat.lt_succ_self _)
    · next l rest ht =>
      cases hrest : rest.isEmpty with
      | true =>
        rw [hrest] at h
        cases h
        exact .inl (Nat.lt_succ_self _)
      | false =>
        rw [hrest] at h
        cases h
        have hlen := (takePick_perm ht).length_eq
        rw [List.length_cons] at hlen
        refine .inr ⟨rfl, ?_, State.flushLine_expired ..⟩
        change rest.length < todo.length
        omega
  | i6 => cases h

theorem eq_i6_of_ringInitStep {r : Ring} {p : RingPhase} (h : ringInitStep r p s = (u, none)) : p = .i6 := by
  rcases ringInitStep_frame h with ⟨hq, -⟩ | ⟨-, hp, -⟩
  · cases hq
  · exact hp

/-- The same at a command's own phases. -/
theorem Advances.of_ring {r : Ring} {p q : RingPhase} {go : RingPhase → Phase} {n : Nat}
    (hgo : ∀ p, phasesLeft (go p) = n + ringLeft p ∧ linesIn (go p) = ringLinesIn p ∧ waits (go p) = false)
    (h : s.phase = go p) (hr : ringInitStep r p s = (u, some q)) : Advances s (u.atPhase i (go q)) := by
  obtain ⟨h1, h2, h3⟩ := hgo p
  obtain ⟨h1', h2', h3'⟩ := hgo q
  rcases ringInitStep_advances hr with hlt | ⟨heq, hlt, he⟩
  · exact .of_next (q := go q) h rfl (by rw [h1, h1']; omega)
  · exact .of_line (q := go q) h rfl he (by rw [h1, h1', heq]) (h3'.trans h3.symm) (by rw [h2, h2']; exact hlt)

/-- Every phase of a running command gets something done, unless its wait goes round. -/
theorem CommandStep.advances (hc : CommandStep i s t) (hl : later i s.phase = true) (hb : s.cfg.resetBounded = true) :
    Advances s t := by
  have hne {P : Prop} (h : later i s.phase = false) : P := by rw [hl] at h; cases h
  cases hc with
  | badState h | ringBegin h | markBegins h | markBadArg h | flushBadArg h | flushBegins h | invalidateBadArg h
  | invalidateBegins h | txBadArg h | rxPollOutstanding h | rxReleaseNone h | rxReleaseBegins h | linkBadArg h
  | linkBegins h | startBegins h | stopBegins h | setMacBegins h => exact hne h
  | ringGoesOn h hr => exact .of_ring (go := .ringInit) (n := 0) (fun p => ⟨(Nat.zero_add _).symm, rfl, rfl⟩) h hr
  | startTxRing h hr => exact .of_ring (go := .devS6) (n := 12) (fun p => ⟨rfl, rfl, rfl⟩) h hr
  | startRxRing h hr => exact .of_ring (go := .devS7) (n := 7) (fun p => ⟨rfl, rfl, rfl⟩) h hr
  | startTxRingEnds h hr | startRxRingEnds h hr =>
    rw [eq_i6_of_ringInitStep hr] at h
    exact .of_next h rfl (Nat.lt_succ_self _)
  | flushLine h ho | invalidateLine h ho | txT3Line h ho | txT5Line h ho | txT7Line h ho =>
    exact .of_line h rfl ho.expired_eq rfl rfl ho.shorter
  | txT1Line h ho =>
    rcases h with h | ⟨h, -⟩
    · exact .of_line h rfl ho.expired_eq rfl rfl ho.shorter
    · exact hne h
  | rxP1Line h ho =>
    rcases h with h | ⟨h, -⟩
    · exact .of_line h rfl ho.expired_eq rfl rfl ho.shorter
    · exact hne h
  | txSlotFree h ho hw =>
    rcases h with h | ⟨h, -⟩
    · exact .of_next h rfl (Nat.lt_succ_self _)
    · exact hne h
  | rxPacket h ho hw hb =>
    rcases h with h | ⟨h, -⟩
    · exact .of_next h rfl (Nat.lt_succ_self _)
    · exact hne h
  | rxP2Line h ho =>
    rcases h with ⟨h, rfl⟩ | ⟨w, h, -⟩
    · exact .of_line h rfl ho.expired_eq rfl rfl ho.shorter
    · exact .of_next h rfl (Nat.lt_succ_self _)
  | rxP2Ends h ho =>
    rcases h with ⟨h, -⟩ | ⟨w, h, -⟩
    · exact .of_next h rfl (Nat.lt_succ_self _)
    · exact .of_next h rfl (Nat.zero_lt_succ _)
  | rxL2Line h ho =>
    rcases h with ⟨h, rfl⟩ | ⟨h, -⟩
    · exact .of_line h rfl ho.expired_eq rfl rfl ho.shorter
    · exact .of_next h rfl (Nat.lt_succ_self _)
  | rxL2Ends h ho =>
    rcases h with ⟨h, -⟩ | ⟨h, -⟩
    · exact .of_next h rfl (Nat.lt_succ_self _)
    · exact .of_next h rfl (Nat.zero_lt_succ _)
  | txAddress h | txT3Ends h | txWord0 h | txT5Ends h | txDoorbell h | txDone h | startConfigOk h | startReset h
  | startResetDone h | startMac h | startIer h | startRegisters h | startEnables h | startLink h | startLinkApplied h
  | stopMac h => exact .of_next h rfl (Nat.lt_succ_self _)
  | @txWaits _ u _ h ho hw he =>
    refine .goesRound (by rw [h]; rfl) (by rw [h]; rfl) rfl he ?_
    obtain ⟨m, x, rfl⟩ := ho.frame
    exact he
  | startResetWaits h hbit he =>
    have hexp : s.expired = false := by simpa [hb] using he
    exact .goesRound (by rw [h]; rfl) (by rw [h]; rfl) rfl hexp hexp
  | _ => exact .ends rfl

/-- Twice the phases left, and 1 while the phase waits for the timer. -/
def State.stage (s : State) : Nat := 2 * phasesLeft s.phase + if waits s.phase && !s.expired then 1 else 0

theorem State.stage_odd : s.stage % 2 = 1 ↔ waits s.phase = true ∧ s.expired = false := by
  unfold State.stage
  cases waits s.phase <;> cases s.expired <;> simp

theorem State.stage_le_of_same (hp : t.phase = s.phase) (he : t.expired = s.expired ∨ t.expired = true) :
    t.stage ≤ s.stage := by
  rcases he with he | he <;> simp [State.stage, hp, he]

theorem Advances.stage (h : Advances s t) : t.op = none ∨ t.stage < s.stage ∨
    (t.stage = s.stage ∧ (linesIn t.phase < linesIn s.phase ∨ s.stage % 2 = 1)) := by
  cases h with
  | ends h => exact .inl h
  | next h =>
    refine .inr (.inl ?_)
    unfold State.stage
    split <;> split <;> omega
  | line h hw he hl =>
    refine .inr (.inr ⟨?_, .inl hl⟩)
    rw [State.stage, h, hw, he]
    rfl
  | goesRound h hw hw' he he' =>
    refine .inr (.inr ⟨?_, .inr (State.stage_odd.mpr ⟨hw, he⟩)⟩)
    rw [State.stage, State.stage, h, hw, hw', he, he']

/-! ## One step while a command runs -/

/-- A step while a command runs: a phase of it, or another agent's, which may let the timer expire. -/
theorem step_running (h : step s = .next t) (ho : s.op = some i) :
    (s.nextTurn.isSoftware = true ∧ ∃ d, CommandStep i (s.turned d s.requests) t) ∨
    (s.nextTurn.isSoftware = false ∧ t.op = s.op ∧ t.phase = s.phase ∧ (t.expired = s.expired ∨ t.expired = true)) := by
  cases step_cases h with
  | runs ht ho' hc =>
    cases ho.symm.trans ho'
    exact .inl ⟨by rw [ht]; rfl, _, hc⟩
  | starts ht ho' | illegal ht ho' | pause ht ho' | arg0 ht ho' | arg1 ht ho' | load ht ho' | store ht ho' =>
    rw [ho] at ho'
    cases ho'
  | txDma ht => exact .inr ⟨by rw [ht]; rfl, by rw [txDmaTurn_frame]; exact ⟨rfl, rfl, .inl rfl⟩⟩
  | wire ht => exact .inr ⟨by rw [ht]; rfl, by rw [wireTurn_frame]; exact ⟨rfl, rfl, .inl rfl⟩⟩
  | rxDma ht => exact .inr ⟨by rw [ht]; rfl, by rw [rxDmaTurn_frame]; exact ⟨rfl, rfl, .inl rfl⟩⟩
  | cacheWriteBack ht => exact .inr ⟨by rw [ht]; rfl, by rw [cacheWriteBackTurn_frame]; exact ⟨rfl, rfl, .inl rfl⟩⟩
  | cacheFill ht => exact .inr ⟨by rw [ht]; rfl, by rw [cacheFillTurn_frame]; exact ⟨rfl, rfl, .inl rfl⟩⟩
  | cacheDrop ht => exact .inr ⟨by rw [ht]; rfl, by rw [cacheDropTurn_frame]; exact ⟨rfl, rfl, .inl rfl⟩⟩
  | mac ht => exact .inr ⟨by rw [ht]; rfl, by unfold macTurn; split <;> exact ⟨rfl, rfl, .inl rfl⟩⟩
  | timer ht =>
    refine .inr ⟨by rw [ht]; rfl, ?_⟩
    unfold timerTurn
    split
    · exact ⟨rfl, rfl, .inr rfl⟩
    · exact ⟨rfl, rfl, .inl rfl⟩

end

/-! ## A run -/

/-- A measure in two parts cannot go on for ever: the first part never rises; where it stays odd it falls some time; where
it stays even, the second part never rises and falls again and again. -/
theorem no_endless_run {stage lines : Nat → Nat} {works : Nat → Prop} (hstage : ∀ n, stage (n + 1) ≤ stage n)
    (hlines : ∀ n, stage (n + 1) = stage n → stage n % 2 = 0 →
      lines (n + 1) ≤ lines n ∧ (works n → lines (n + 1) < lines n))
    (hworks : ∀ n, ∃ m, n ≤ m ∧ works m)
    (hodd : ∀ n, (∀ m, n ≤ m → stage m % 2 = 1) → ∃ m, n ≤ m ∧ stage (m + 1) < stage m) : False := by
  obtain ⟨-, ⟨N, rfl⟩, hN⟩ := wellFounded_lt.has_min (Set.range stage) ⟨_, 0, rfl⟩
  have hsame (m : Nat) (hm : N ≤ m) : stage m = stage N :=
    le_antisymm (antitone_nat_of_succ_le hstage hm) (not_lt.mp (hN _ ⟨m, rfl⟩))
  rcases Nat.mod_two_eq_zero_or_one (stage N) with heven | hodd'
  · obtain ⟨-, ⟨M, hM, rfl⟩, hmin⟩ := wellFounded_lt.has_min (lines '' {m | N ≤ m}) ⟨_, N, (le_rfl : N ≤ N), rfl⟩
    change N ≤ M at hM
    have hstep (m : Nat) (hm : N ≤ m) := hlines m ((hsame _ (by omega)).trans (hsame m hm).symm) (hsame m hm ▸ heven)
    have hle (k : Nat) : lines (M + k) ≤ lines M := by
      induction k with
      | zero => exact le_rfl
      | succ k ih => exact ((hstep (M + k) (Nat.le_add_right_of_le hM)).1).trans ih
    obtain ⟨m, hm, hw⟩ := hworks M
    obtain ⟨k, rfl⟩ := Nat.exists_eq_add_of_le hm
    exact hmin _ ⟨M + k + 1, (by omega : N ≤ M + k + 1), rfl⟩
      (((hstep (M + k) (Nat.le_add_right_of_le hM)).2 hw).trans_le (hle k))
  · obtain ⟨m, hm, hlt⟩ := hodd N fun m hm => (hsame m hm).symm ▸ hodd'
    rw [hsame m hm, hsame (m + 1) (by omega)] at hlt
    exact lt_irrefl _ hlt

/-- The state with the schedule's turn as the next one. -/
def State.withTurn (s : State) (tn : Turn) : State := { s with agenda := [tn] }

section
variable {sched : Nat → Turn} {s : State} (hs : s.sound = true)
include hs

theorem scheduledRun_sound (n : Nat) :
    (scheduledRun sched s n).sound = true ∧ (scheduledRun sched s n).cfg = s.cfg ∧
      step ((scheduledRun sched s n).withTurn (sched n)) = .next (scheduledRun sched s (n + 1)) := by
  have hstep (k : Nat) (hk : (scheduledRun sched s k).sound = true) :
      step ((scheduledRun sched s k).withTurn (sched k)) = .next (scheduledRun sched s (k + 1)) := by
    obtain ⟨t, ht⟩ := stepNeverStops ((scheduledRun sched s k).withTurn (sched k)) (State.sound_iff _ |>.mp hk).1
    rw [ht, scheduledRun]
    change _ = Host.Outcome.next (match step ((scheduledRun sched s k).withTurn (sched k)) with
      | .next t => t
      | .fault _ => scheduledRun sched s k
      | .refused _ => scheduledRun sched s k)
    rw [ht]
  induction n with
  | zero => exact ⟨hs, rfl, hstep 0 hs⟩
  | succ n ih =>
    obtain ⟨h1, h2, h3⟩ := ih
    have h1' := stepKeepsSound ((scheduledRun sched s n).withTurn (sched n)) _ h1 h3
    exact ⟨h1', (stepKeepsConfiguration ((scheduledRun sched s n).withTurn (sched n)) _ h3).trans h2, hstep _ h1'⟩

/-- While BUSY is 1 the measure goes on. -/
theorem scheduledRun_advances (hb : s.cfg.resetBounded = true) (hbusy : ∀ n, (scheduledRun sched s n).busy = true)
    (n : Nat) : (scheduledRun sched s (n + 1)).stage < (scheduledRun sched s n).stage ∨
      ((scheduledRun sched s (n + 1)).stage = (scheduledRun sched s n).stage ∧
        ((scheduledRun sched s n).stage % 2 = 0 →
          linesIn (scheduledRun sched s (n + 1)).phase ≤ linesIn (scheduledRun sched s n).phase ∧
          ((sched n).isSoftware = true →
            linesIn (scheduledRun sched s (n + 1)).phase < linesIn (scheduledRun sched s n).phase))) := by
  obtain ⟨hsound, hcfg, hstep⟩ := scheduledRun_sound (sched := sched) hs n
  obtain ⟨hsound', -⟩ := scheduledRun_sound (sched := sched) hs (n + 1)
  have hbusy' := hbusy (n + 1)
  have hbusy := hbusy n
  generalize scheduledRun sched s (n + 1) = t at *
  generalize scheduledRun sched s n = u at *
  have hseq := (u.sound_iff.mp hsound).1
  cases ho : u.op with
  | none => simp [(idle_of_seqOk hseq ho).1] at hbusy
  | some i =>
    rcases step_running hstep ho with ⟨ht, d, hc⟩ | ⟨ht, -, hp, he⟩
    · rcases (hc.advances (running_of_seqOk hseq ho).2.1 (hcfg ▸ hb)).stage with hend | hlt | ⟨heq, hl⟩
      · simp [(idle_of_seqOk (t.sound_iff.mp hsound').1 hend).1] at hbusy'
      · exact .inl hlt
      · refine .inr ⟨heq, fun heven => ?_⟩
        have hlt := hl.resolve_right fun hodd => absurd (heven.symm.trans hodd) (by decide)
        exact ⟨hlt.le, fun _ => hlt⟩
    · have hle : t.stage ≤ u.stage := State.stage_le_of_same hp he
      refine hle.lt_or_eq.imp id fun heq => ⟨heq, fun _ => ⟨by rw [hp]; rfl, fun hsw => ?_⟩⟩
      rw [show (u.withTurn (sched n)).nextTurn = sched n from rfl, hsw] at ht
      cases ht

end

theorem isTimer_iff {tn : Turn} : tn.isTimer = true ↔ tn = .timer := by cases tn <;> simp [Turn.isTimer]

theorem waiting_of_waits {s : State} (hw : waits s.phase = true) (hb : s.busy = true) (hr : s.cfg.resetBounded = true) :
    s.waiting = true := by
  refine s.waiting_iff.mpr ⟨hb, ?_⟩
  revert hw
  generalize s.phase = p
  intro hw
  cases p with
  | txT7 todo => exact .inl ⟨todo, rfl⟩
  | devS4 => exact .inr ⟨rfl, hr⟩
  | _ => cases hw

/-- Settles O59: the measure cannot go on for ever; a wait that goes round meets the timer. -/
theorem everyCommandEnds : Obligations.EveryCommandEnds := by
  intro sched s hfair hs hb _
  by_contra hn
  have hbusy (n : Nat) : (scheduledRun sched s n).busy = true := by
    by_contra he
    exact hn ⟨n, by simpa using he⟩
  refine no_endless_run (stage := fun n => (scheduledRun sched s n).stage)
    (lines := fun n => linesIn (scheduledRun sched s n).phase) (works := fun n => (sched n).isSoftware = true)
    (fun n => ?_) (fun n heq heven => ?_) (fun n => hfair.software n fun m _ => hbusy m) fun n hodd => ?_
  · rcases scheduledRun_advances hs hb hbusy n with h | ⟨h, -⟩
    · exact h.le
    · exact h.le
  · rcases scheduledRun_advances hs hb hbusy n with h | ⟨-, h⟩
    · exact absurd heq h.ne
    · exact h heven
  · have hwait (m : Nat) (hm : n ≤ m) : (scheduledRun sched s m).waiting = true :=
      waiting_of_waits (State.stage_odd.mp (hodd m hm)).1 (hbusy m)
        ((scheduledRun_sound (sched := sched) hs m).2.1 ▸ hb)
    obtain ⟨m, hm, ht⟩ := hfair.timer n hwait
    exfalso
    have hstep := (scheduledRun_sound (sched := sched) hs m).2.2
    rw [isTimer_iff.mp ht] at hstep
    have hrun : step ((scheduledRun sched s m).withTurn .timer) =
        .next (timerTurn ((scheduledRun sched s m).withTurn .timer).takeTurn) := step_of_turn rfl
    rw [hrun] at hstep
    obtain ⟨-, -, hset⟩ := timerFlag
    have hexp := hset ((scheduledRun sched s m).withTurn .timer).takeTurn (hwait m hm)
    rw [Host.Outcome.next.inj hstep, (State.stage_odd.mp (hodd (m + 1) (by omega))).2] at hexp
    cases hexp

end Sys2Proof.Machine
